-- ==== Sys2Proof/Word.lean ====
section
/-! DEFINITION. The words of the machine: bytes, 16-bit words and 20-bit physical addresses (spec 00_scope.md R4, R5). -/

namespace Sys2Proof

/-- One byte of the instruction stream or of memory. -/
abbrev Byte := BitVec 8

/-- A 16-bit register, offset or displacement (`REG_W`, `EA_W`, R4). -/
abbrev Word := BitVec 16

/-- A physical address, `PA_W` = 20 bits (R5, D5). -/
abbrev PhysAddr := BitVec 20

end Sys2Proof
end

