-- ==== Sys2Proof/Syntax.lean ====
section
/-! DEFINITION. The instructions: one constructor per row of spec/opcode_table.json.
32 forms of the operand specifier that `decode` fetches from the stream (R67), each with the free field `regIndex` of its
mode byte and its displacement as it stands in the stream, and the 14 commands of the command port (R72) with their arguments. -/

namespace Sys2Proof

/-- An operand specifier (30_encoding.md R67) or a command (30_encoding.md R72). -/
inductive Instr where
  /-- `[BX+SI]`: `mux` = 0, `memIndex` = 0, format M0 (R100). -/
  | bxSi (regIndex : BitVec 3)
  /-- `[BX+DI]`: `mux` = 0, `memIndex` = 1, format M0 (R101). -/
  | bxDi (regIndex : BitVec 3)
  /-- `[BP+SI]`: `mux` = 0, `memIndex` = 2, format M0 (R102). -/
  | bpSi (regIndex : BitVec 3)
  /-- `[BP+DI]`: `mux` = 0, `memIndex` = 3, format M0 (R103). -/
  | bpDi (regIndex : BitVec 3)
  /-- `[SI]`: `mux` = 0, `memIndex` = 4, format M0 (R104). -/
  | si (regIndex : BitVec 3)
  /-- `[DI]`: `mux` = 0, `memIndex` = 5, format M0 (R105). -/
  | di (regIndex : BitVec 3)
  /-- `[d16]`: `mux` = 0, `memIndex` = 6, format M16 (R106). -/
  | d16 (regIndex : BitVec 3) (value16 : Word)
  /-- `[BX]`: `mux` = 0, `memIndex` = 7, format M0 (R107). -/
  | bx (regIndex : BitVec 3)
  /-- `[BX+SI+d8]`: `mux` = 1, `memIndex` = 0, format M8 (R110). -/
  | bxSiD8 (regIndex : BitVec 3) (disp8 : Byte)
  /-- `[BX+DI+d8]`: `mux` = 1, `memIndex` = 1, format M8 (R111). -/
  | bxDiD8 (regIndex : BitVec 3) (disp8 : Byte)
  /-- `[BP+SI+d8]`: `mux` = 1, `memIndex` = 2, format M8 (R112). -/
  | bpSiD8 (regIndex : BitVec 3) (disp8 : Byte)
  /-- `[BP+DI+d8]`: `mux` = 1, `memIndex` = 3, format M8 (R113). -/
  | bpDiD8 (regIndex : BitVec 3) (disp8 : Byte)
  /-- `[SI+d8]`: `mux` = 1, `memIndex` = 4, format M8 (R114). -/
  | siD8 (regIndex : BitVec 3) (disp8 : Byte)
  /-- `[DI+d8]`: `mux` = 1, `memIndex` = 5, format M8 (R115). -/
  | diD8 (regIndex : BitVec 3) (disp8 : Byte)
  /-- `[BP+d8]`: `mux` = 1, `memIndex` = 6, format M8 (R116). -/
  | bpD8 (regIndex : BitVec 3) (disp8 : Byte)
  /-- `[BX+d8]`: `mux` = 1, `memIndex` = 7, format M8 (R117). -/
  | bxD8 (regIndex : BitVec 3) (disp8 : Byte)
  /-- `[BX+SI+d16]`: `mux` = 2, `memIndex` = 0, format M16 (R120). -/
  | bxSiD16 (regIndex : BitVec 3) (value16 : Word)
  /-- `[BX+DI+d16]`: `mux` = 2, `memIndex` = 1, format M16 (R121). -/
  | bxDiD16 (regIndex : BitVec 3) (value16 : Word)
  /-- `[BP+SI+d16]`: `mux` = 2, `memIndex` = 2, format M16 (R122). -/
  | bpSiD16 (regIndex : BitVec 3) (value16 : Word)
  /-- `[BP+DI+d16]`: `mux` = 2, `memIndex` = 3, format M16 (R123). -/
  | bpDiD16 (regIndex : BitVec 3) (value16 : Word)
  /-- `[SI+d16]`: `mux` = 2, `memIndex` = 4, format M16 (R124). -/
  | siD16 (regIndex : BitVec 3) (value16 : Word)
  /-- `[DI+d16]`: `mux` = 2, `memIndex` = 5, format M16 (R125). -/
  | diD16 (regIndex : BitVec 3) (value16 : Word)
  /-- `[BP+d16]`: `mux` = 2, `memIndex` = 6, format M16 (R126). -/
  | bpD16 (regIndex : BitVec 3) (value16 : Word)
  /-- `[BX+d16]`: `mux` = 2, `memIndex` = 7, format M16 (R127). -/
  | bxD16 (regIndex : BitVec 3) (value16 : Word)
  /-- `reg0`: `mux` = 3, `memIndex` = 0, format M0 (R130). -/
  | reg0 (regIndex : BitVec 3)
  /-- `reg1`: `mux` = 3, `memIndex` = 1, format M0 (R131). -/
  | reg1 (regIndex : BitVec 3)
  /-- `reg2`: `mux` = 3, `memIndex` = 2, format M0 (R132). -/
  | reg2 (regIndex : BitVec 3)
  /-- `reg3`: `mux` = 3, `memIndex` = 3, format M0 (R133). -/
  | reg3 (regIndex : BitVec 3)
  /-- `reg4`: `mux` = 3, `memIndex` = 4, format M0 (R134). -/
  | reg4 (regIndex : BitVec 3)
  /-- `reg5`: `mux` = 3, `memIndex` = 5, format M0 (R135). -/
  | reg5 (regIndex : BitVec 3)
  /-- `reg6`: `mux` = 3, `memIndex` = 6, format M0 (R136). -/
  | reg6 (regIndex : BitVec 3)
  /-- `reg7`: `mux` = 3, `memIndex` = 7, format M0 (R137). -/
  | reg7 (regIndex : BitVec 3)
  /-- `decode` (R80). -/
  | decode
  /-- `armOverride(s)`: arm the one-shot override with segment index `s` (R141). -/
  | armOverride (s : Nat)
  /-- `clearOverride` (R143). -/
  | clearOverride
  /-- `getReg8` (R151). -/
  | getReg8
  /-- `getReg16` (R152). -/
  | getReg16
  /-- `setReg8(v)` (R153). -/
  | setReg8 (v : Byte)
  /-- `setReg16(v)` (R154). -/
  | setReg16 (v : Word)
  /-- `getSeg` (R155). -/
  | getSeg
  /-- `setSeg(v)` (R156). -/
  | setSeg (v : Word)
  /-- `getMem8` (R157). -/
  | getMem8
  /-- `getMem16` (R158). -/
  | getMem16
  /-- `setMem8(v)` (R159). -/
  | setMem8 (v : Byte)
  /-- `setMem16(v)` (R160). -/
  | setMem16 (v : Word)
  /-- `reset` (R190). -/
  | reset
deriving DecidableEq, Repr

end Sys2Proof
end

