-- ==== Sys2Proof/WellFormed.lean ====
section
/-! DEFINITION. Which instructions can stand at the command port or in the stream.
The fields of a form have the widths of the mode byte and of the displacement (R60, R62 to R64), so every form is well formed
(R69: there are no reserved encodings). The one check is that the segment index of `armOverride` fits the 16-bit argument
of the command port (log entry 4); an index that fits and is no segment slot is well formed, and raises (R141). -/

namespace Sys2Proof

/-- The instruction has an encoding: its argument fits the argument word of the command port. -/
def Instr.wf : Instr → Bool
  | .armOverride s => decide (s < 65536)
  | .bxSi _ => true
  | .bxDi _ => true
  | .bpSi _ => true
  | .bpDi _ => true
  | .si _ => true
  | .di _ => true
  | .d16 _ _ => true
  | .bx _ => true
  | .bxSiD8 _ _ => true
  | .bxDiD8 _ _ => true
  | .bpSiD8 _ _ => true
  | .bpDiD8 _ _ => true
  | .siD8 _ _ => true
  | .diD8 _ _ => true
  | .bpD8 _ _ => true
  | .bxD8 _ _ => true
  | .bxSiD16 _ _ => true
  | .bxDiD16 _ _ => true
  | .bpSiD16 _ _ => true
  | .bpDiD16 _ _ => true
  | .siD16 _ _ => true
  | .diD16 _ _ => true
  | .bpD16 _ _ => true
  | .bxD16 _ _ => true
  | .reg0 _ => true
  | .reg1 _ => true
  | .reg2 _ => true
  | .reg3 _ => true
  | .reg4 _ => true
  | .reg5 _ => true
  | .reg6 _ => true
  | .reg7 _ => true
  | .decode => true
  | .clearOverride => true
  | .getReg8 => true
  | .getReg16 => true
  | .setReg8 _ => true
  | .setReg16 _ => true
  | .getSeg => true
  | .setSeg _ => true
  | .getMem8 => true
  | .getMem16 => true
  | .setMem8 _ => true
  | .setMem16 _ => true
  | .reset => true

end Sys2Proof
end

