-- ==== Sys2Proof/Decode.lean ====
section
/-! DEFINITION. Decoding and encoding: the operand specifier (one mode byte and its displacement, 30_encoding.md R60 to R69)
and the commands of the 4-bit command port (R72). -/

namespace Sys2Proof

/-- The three formats of an operand specifier (30_encoding.md R62, R63, R64). -/
inductive Format where
  | m0
  | m8
  | m16
deriving DecidableEq, Repr

/-- What the bytes or the command word of no instruction are rejected as. -/
inductive DecodeError where
  /-- The bytes end inside a specifier of this format; `m0` where there is no mode byte at all. -/
  | truncated (format : Format)
  /-- The command code spells no command: 0xE or 0xF (R72). -/
  | unassignedCode (code : BitVec 4)
deriving DecidableEq, Repr

/-- An encoded instruction: bytes of the stream, or a code and an argument at the command port. -/
inductive Encoded where
  | specifier (bytes : List Byte)
  | request (code : BitVec 4) (arg : Word)
deriving DecidableEq, Repr

/-- The mode byte from its fields, `mux` in bits 7:6, `regIndex` in 5:3, `memIndex` in 2:0 (R60). -/
def modeByte (mux : BitVec 2) (regIndex memIndex : BitVec 3) : Byte := mux ++ regIndex ++ memIndex

/-- The field `mux` of a mode byte (R61). -/
def muxOf (b : Byte) : BitVec 2 := b.extractLsb' 6 2

/-- The field `regIndex` of a mode byte (R61). -/
def regIndexOf (b : Byte) : BitVec 3 := b.extractLsb' 3 3

/-- The field `memIndex` of a mode byte (R61). -/
def memIndexOf (b : Byte) : BitVec 3 := b.extractLsb' 0 3

/-- The format that `mux` and `memIndex` select, hence how many displacement bytes follow (R65). -/
def formatOf (mux : BitVec 2) (memIndex : BitVec 3) : Format :=
  if mux = 2 then .m16
  else if mux = 0 && memIndex = 6 then .m16
  else if mux = 1 then .m8
  else .m0

/-- The displacement bytes of a format (R62 to R64). -/
def Format.dispBytes : Format → Nat
  | .m0 => 0
  | .m8 => 1
  | .m16 => 2

/-- A form of format M8: its displacement is the next byte (R63). -/
def takeByte (form : Byte → Instr) : List Byte → Except DecodeError (Instr × List Byte)
  | d :: rest => .ok (form d, rest)
  | [] => .error (.truncated .m8)

/-- A form of format M16: its displacement is the next two bytes, the low one first (R64). -/
def takeWord (form : Word → Instr) : List Byte → Except DecodeError (Instr × List Byte)
  | lo :: hi :: rest => .ok (form (hi ++ lo), rest)
  | _ => .error (.truncated .m16)

/-- The form that bits 7, 6, 2, 1 and 0 of a mode byte select, with its `regIndex` and with its displacement taken from the bytes
that follow: the table of R67. Every choice of the five bits has its one form (R69), so there is no default arm (R70). -/
def selectForm (m1 m0 x2 x1 x0 : Bool) (r : BitVec 3) (rest : List Byte) : Except DecodeError (Instr × List Byte) :=
  match m1, m0, x2, x1, x0 with
  | false, false, false, false, false => .ok (.bxSi r, rest)
  | false, false, false, false, true => .ok (.bxDi r, rest)
  | false, false, false, true, false => .ok (.bpSi r, rest)
  | false, false, false, true, true => .ok (.bpDi r, rest)
  | false, false, true, false, false => .ok (.si r, rest)
  | false, false, true, false, true => .ok (.di r, rest)
  | false, false, true, true, false => takeWord (.d16 r) rest
  | false, false, true, true, true => .ok (.bx r, rest)
  | false, true, false, false, false => takeByte (.bxSiD8 r) rest
  | false, true, false, false, true => takeByte (.bxDiD8 r) rest
  | false, true, false, true, false => takeByte (.bpSiD8 r) rest
  | false, true, false, true, true => takeByte (.bpDiD8 r) rest
  | false, true, true, false, false => takeByte (.siD8 r) rest
  | false, true, true, false, true => takeByte (.diD8 r) rest
  | false, true, true, true, false => takeByte (.bpD8 r) rest
  | false, true, true, true, true => takeByte (.bxD8 r) rest
  | true, false, false, false, false => takeWord (.bxSiD16 r) rest
  | true, false, false, false, true => takeWord (.bxDiD16 r) rest
  | true, false, false, true, false => takeWord (.bpSiD16 r) rest
  | true, false, false, true, true => takeWord (.bpDiD16 r) rest
  | true, false, true, false, false => takeWord (.siD16 r) rest
  | true, false, true, false, true => takeWord (.diD16 r) rest
  | true, false, true, true, false => takeWord (.bpD16 r) rest
  | true, false, true, true, true => takeWord (.bxD16 r) rest
  | true, true, false, false, false => .ok (.reg0 r, rest)
  | true, true, false, false, true => .ok (.reg1 r, rest)
  | true, true, false, true, false => .ok (.reg2 r, rest)
  | true, true, false, true, true => .ok (.reg3 r, rest)
  | true, true, true, false, false => .ok (.reg4 r, rest)
  | true, true, true, false, true => .ok (.reg5 r, rest)
  | true, true, true, true, false => .ok (.reg6 r, rest)
  | true, true, true, true, true => .ok (.reg7 r, rest)

/-- The operand specifier at the head of a byte list, and the bytes after it (R60 to R67). -/
def decodeSpecifier : List Byte → Except DecodeError (Instr × List Byte)
  | [] => .error (.truncated .m0)
  | b :: rest =>
    selectForm (b.getLsbD 7) (b.getLsbD 6) (b.getLsbD 2) (b.getLsbD 1) (b.getLsbD 0) (regIndexOf b) rest

/-- The command that a code and an argument word spell (R72). A command without an argument does not look at the word; an
8-bit argument is its low byte (log entry 4). -/
def decodeCommand (code : BitVec 4) (arg : Word) : Except DecodeError Instr :=
  match code.getLsbD 3, code.getLsbD 2, code.getLsbD 1, code.getLsbD 0 with
  | false, false, false, false => .ok .decode
  | false, false, false, true => .ok (.armOverride arg.toNat)
  | false, false, true, false => .ok .clearOverride
  | false, false, true, true => .ok .getReg8
  | false, true, false, false => .ok .getReg16
  | false, true, false, true => .ok (.setReg8 (arg.setWidth 8))
  | false, true, true, false => .ok (.setReg16 arg)
  | false, true, true, true => .ok .getSeg
  | true, false, false, false => .ok (.setSeg arg)
  | true, false, false, true => .ok .getMem8
  | true, false, true, false => .ok .getMem16
  | true, false, true, true => .ok (.setMem8 (arg.setWidth 8))
  | true, true, false, false => .ok (.setMem16 arg)
  | true, true, false, true => .ok .reset
  | true, true, true, _ => .error (.unassignedCode code)

/-- The instruction an encoding stands for, and the bytes after it (none at the command port). -/
def decodeEncoded : Encoded → Except DecodeError (Instr × List Byte)
  | .specifier bytes => decodeSpecifier bytes
  | .request code arg => (decodeCommand code arg).map (·, [])

/-- A word as two bytes in stream order, the low byte first (R43, R64). -/
def wordBytes (v : Word) : List Byte := [v.extractLsb' 0 8, v.extractLsb' 8 8]

/-- The encoding of an instruction: the mode byte and displacement of a form (R62 to R64, R67), the code and argument of a
command (R72). -/
def encode : Instr → Encoded
  | .bxSi r => .specifier (modeByte 0 r 0 :: [])
  | .bxDi r => .specifier (modeByte 0 r 1 :: [])
  | .bpSi r => .specifier (modeByte 0 r 2 :: [])
  | .bpDi r => .specifier (modeByte 0 r 3 :: [])
  | .si r => .specifier (modeByte 0 r 4 :: [])
  | .di r => .specifier (modeByte 0 r 5 :: [])
  | .d16 r v => .specifier (modeByte 0 r 6 :: wordBytes v)
  | .bx r => .specifier (modeByte 0 r 7 :: [])
  | .bxSiD8 r d => .specifier (modeByte 1 r 0 :: [d])
  | .bxDiD8 r d => .specifier (modeByte 1 r 1 :: [d])
  | .bpSiD8 r d => .specifier (modeByte 1 r 2 :: [d])
  | .bpDiD8 r d => .specifier (modeByte 1 r 3 :: [d])
  | .siD8 r d => .specifier (modeByte 1 r 4 :: [d])
  | .diD8 r d => .specifier (modeByte 1 r 5 :: [d])
  | .bpD8 r d => .specifier (modeByte 1 r 6 :: [d])
  | .bxD8 r d => .specifier (modeByte 1 r 7 :: [d])
  | .bxSiD16 r v => .specifier (modeByte 2 r 0 :: wordBytes v)
  | .bxDiD16 r v => .specifier (modeByte 2 r 1 :: wordBytes v)
  | .bpSiD16 r v => .specifier (modeByte 2 r 2 :: wordBytes v)
  | .bpDiD16 r v => .specifier (modeByte 2 r 3 :: wordBytes v)
  | .siD16 r v => .specifier (modeByte 2 r 4 :: wordBytes v)
  | .diD16 r v => .specifier (modeByte 2 r 5 :: wordBytes v)
  | .bpD16 r v => .specifier (modeByte 2 r 6 :: wordBytes v)
  | .bxD16 r v => .specifier (modeByte 2 r 7 :: wordBytes v)
  | .reg0 r => .specifier (modeByte 3 r 0 :: [])
  | .reg1 r => .specifier (modeByte 3 r 1 :: [])
  | .reg2 r => .specifier (modeByte 3 r 2 :: [])
  | .reg3 r => .specifier (modeByte 3 r 3 :: [])
  | .reg4 r => .specifier (modeByte 3 r 4 :: [])
  | .reg5 r => .specifier (modeByte 3 r 5 :: [])
  | .reg6 r => .specifier (modeByte 3 r 6 :: [])
  | .reg7 r => .specifier (modeByte 3 r 7 :: [])
  | .decode => .request 0 0
  | .armOverride s => .request 1 (BitVec.ofNat 16 s)
  | .clearOverride => .request 2 0
  | .getReg8 => .request 3 0
  | .getReg16 => .request 4 0
  | .setReg8 v => .request 5 (v.setWidth 16)
  | .setReg16 v => .request 6 v
  | .getSeg => .request 7 0
  | .setSeg v => .request 8 v
  | .getMem8 => .request 9 0
  | .getMem16 => .request 10 0
  | .setMem8 v => .request 11 (v.setWidth 16)
  | .setMem16 v => .request 12 v
  | .reset => .request 13 0

/-- The bytes of a form in stream order; none for a command. -/
def encodeSpecifier (i : Instr) : List Byte :=
  match encode i with
  | .specifier bytes => bytes
  | .request _ _ => []

/-- The instruction is a form of the operand specifier, not a command. -/
def Instr.isForm (i : Instr) : Bool :=
  match encode i with
  | .specifier _ => true
  | .request _ _ => false

/-- The first three bytes of a number, least significant first: the longest specifier has three (R64). -/
def tableBytes (w : Nat) : List Byte :=
  [BitVec.ofNat 8 w, BitVec.ofNat 8 (w / 256), BitVec.ofNat 8 (w / 65536)]

/-- Whether a word of the opcode table stands at the command port or in the stream. The table's command rows are 4-bit codes
and its form rows 8-bit mode bytes, and the words 0x0 to 0xD spell both; a word of at most 8 bits that is an assigned
command code is read as the command, every other word as a specifier (log entry 17). -/
def tableWordIsCommand (nbits w : Nat) : Bool := decide (nbits ≤ 4) || (decide (nbits ≤ 8) && decide (w < 14))

/-- The instruction this decoder reads from a word of spec/opcode_table.json (log entry 17). -/
def decodeTableWord (nbits w : Nat) : Option Instr :=
  if tableWordIsCommand nbits w then (decodeCommand (BitVec.ofNat 4 w) 0).toOption
  else ((decodeSpecifier (tableBytes w)).map Prod.fst).toOption

end Sys2Proof
end

