-- ==== Sys2Proof/Machine/Types.lean ====
section
/-! DEFINITION. The kinds of data the state is made of: the latched fields, the resolved operand, the error kinds, the
responses, and what the caller may ask for. -/

namespace Sys2Proof.Machine

/-- A segment slot, `NSEG` = 4: 0 ES, 1 CS, 2 SS, 3 DS (10_state.md R23, D3). -/
abbrev SegIndex := Fin 4

/-- The three fields of the last mode byte, latched by `decode` (10_state.md R12, 40_decode.md R82). -/
structure Fields where
  mux : BitVec 2
  regIndex : BitVec 3
  memIndex : BitVec 3
deriving DecidableEq, Repr, Inhabited

/-- `st` together with the latched fields that have a meaning in it, in the shape 10_state.md R19 asks for: a field is
absent where R12 to R14 give it no meaning (U5, U8; log entry 10). -/
inductive Resolution where
  /-- No operand (R11). -/
  | unresolved
  /-- `Register(memIndex)`, after a mode byte with `mux` = 3 (R93). -/
  | register (fields : Fields)
  /-- `Memory(res_seg, res_off)` with its latched physical address `res_phys` (R13, R14, R92). -/
  | memory (fields : Fields) (resSeg : SegIndex) (resOff : Word) (resPhys : PhysAddr)
deriving DecidableEq, Repr, Inhabited

/-- The kind of a memory access, as `AddrValid` sees it (20_memory.md R55). -/
inductive AccessKind where
  | read
  | write
deriving DecidableEq, Repr

/-- The five error kinds of 60_exceptions.md R170. -/
inductive ErrorKind where
  | streamExhausted
  | memoryAccessError
  /-- Raised by nothing (R173). -/
  | invariantViolation
  | registerIndexError
  | protocolViolation
deriving DecidableEq, Repr

/-- A command's response (00_scope.md R9, 30_encoding.md R74). -/
inductive Response where
  | ok
  /-- `ok(v)` with an 8-bit value. -/
  | okByte (v : Byte)
  /-- `ok(v)` with a 16-bit value. -/
  | okWord (v : Word)
  /-- `error(k)` with the value R170 records: the physical address or the offending index, else none. -/
  | error (kind : ErrorKind) (recorded : Option Nat)
deriving DecidableEq, Repr

/-- What block-local state an error leaves (60_exceptions.md R176 (d)). -/
inductive Aftermath where
  /-- The resolution and the override latch become unspecified: the general case. -/
  | unspecified
  /-- `st` is `Unresolved`, the latch unspecified: a failed `decode` (40_decode.md R97). -/
  | unresolved
  /-- The resolution becomes unspecified, the latch is as it was: `armOverride`'s refusal. -/
  | latchKept
  /-- All block-local state but `fault` is as it was: `MemoryAccessError` (R172). -/
  | unchanged
deriving DecidableEq, Repr

/-- What the caller may do between commands as owner of the collaborators (70_reset_and_hazards.md R203; log entry 19). -/
inductive CallerMove where
  | writeReg16 (i : BitVec 3) (v : Word)
  | writeReg8 (i : BitVec 3) (v : Byte)
  | writeSeg (i : SegIndex) (v : Word)
  | writeByte (pa : PhysAddr) (v : Byte)
  /-- The caller fetches one byte of the stream (an opcode, a prefix, an immediate). -/
  | fetchByte
  /-- The caller fetches one word of the stream. -/
  | fetchWord
deriving DecidableEq, Repr

/-- One entry of the script: a command at the command port, as its 4-bit code and argument word (30_encoding.md R72), or a
move of the caller. -/
inductive Request where
  | command (code : BitVec 4) (arg : Word)
  | caller (move : CallerMove)
deriving DecidableEq, Repr

/-- Memory: (address, byte) pairs, addresses strictly rising, no entry equal to what an unlisted address reads as. -/
abbrev Memory := List Host.Cell

end Sys2Proof.Machine
end

