-- ==== Sys2Proof/Machine/Memory.lean ====
section
/-! DEFINITION. Physical memory as a canonical list of (address, byte) pairs (20_memory.md R44). -/

namespace Sys2Proof.Machine

/-- What an address that is not listed reads as (log entry 9). -/
def Memory.blank : Byte := 0

/-- The byte at an address. -/
def Memory.read : Memory → Nat → Byte
  | [], _ => Memory.blank
  | (k, b) :: rest, a => if k = a then b else Memory.read rest a

/-- One byte put at its place in front of a list whose entries lie above it; the blank byte is not listed. -/
def Memory.cons (a : Nat) (v : Byte) (m : Memory) : Memory := if v = Memory.blank then m else (a, v) :: m

/-- The memory with the byte at an address changed, in canonical form. -/
def Memory.write : Memory → Nat → Byte → Memory
  | [], a, v => Memory.cons a v []
  | (k, b) :: rest, a, v =>
    if k < a then (k, b) :: Memory.write rest a v
    else if k = a then Memory.cons a v rest
    else Memory.cons a v ((k, b) :: rest)

/-- Every listed address is at or above a bound. -/
def Memory.above (lo : Nat) : Memory → Bool
  | [] => true
  | (k, _) :: _ => decide (lo ≤ k)

/-- The canonical form: addresses strictly rising and below 2^20 (R44), no entry equal to the blank byte. -/
def Memory.wf : Memory → Bool
  | [] => true
  | (k, b) :: rest => decide (k < 1048576) && decide (b ≠ Memory.blank) && Memory.above (k + 1) rest && Memory.wf rest

end Sys2Proof.Machine
end

