-- ==== Sys2Proof/Config.lean ====
section
/-! DEFINITION. What the spec fixes for this hardware (00_scope.md R5, R6) and the free values: the values the spec leaves
unspecified, as constants without a body, of which no proof can say anything (93_implementation_defined.md part 1). -/

namespace Sys2Proof.Config

open Sys2Proof.Machine

/-- `NSEG`, the number of segment slots (R5, D3). -/
def nseg : Nat := 4

/-- `IDX_BX` (R5, D1). -/
def idxBX : BitVec 3 := 3

/-- `IDX_BP` (R5, D1). -/
def idxBP : BitVec 3 := 5

/-- `IDX_SI` (R5, D1). -/
def idxSI : BitVec 3 := 6

/-- `IDX_DI` (R5, D1). -/
def idxDI : BitVec 3 := 7

/-- `SEG_DATA`, DS (R5, D3). -/
def segData : SegIndex := 3

/-- `SEG_STACK`, SS (R5, D3). -/
def segStack : SegIndex := 2

/-- The resolution state and latched fields after an error that leaves them unspecified (R176 (d), U2). FREE VALUE, log
entry 11. -/
opaque freeResolution : Nat → Resolution

/-- The override latch after an error that leaves it unspecified (R176 (d), U2). FREE VALUE, log entry 11. -/
opaque freeOverride : Nat → Option SegIndex

/-- Whether a word fetch that finds exactly one byte consumes it (20_memory.md R43, U3). FREE VALUE, log entry 12. -/
opaque freeConsumed : Nat → Bool

/-- The two bytes a rejected word write leaves at its two addresses, low byte first (20_memory.md R49, U4). FREE VALUE, log
entry 13. -/
opaque freeWord : Nat → Word

end Sys2Proof.Config
end

