-- ==== Sys2Proof/Machine/State.lean ====
section
/-! DEFINITION. The state of the machine, as plain data, the reasons it can stop, and the state right after reset. -/

namespace Sys2Proof.Machine

/-- The whole state (10_state.md R10): the block's own registers, the collaborators' state, and the configuration `code` and
`AddrValid` that R6 leaves open, held here so that every statement quantifies over it (log entries 2, 3). -/
structure State where
  /-- `st`, `mux`, `regIndex`, `memIndex`, `res_seg`, `res_off`, `res_phys` (R11 to R14, R19). -/
  resolution : Resolution
  /-- `ovr_valid` and `ovr_seg`: the pending one-shot override (R15, R140). -/
  override : Option SegIndex
  /-- `fault`: the first error since reset, none for code 0 (R16). -/
  fault : Option ErrorKind
  /-- `r16`: AX, CX, DX, BX, SP, BP, SI, DI (R20). -/
  r16 : Vector Word 8
  /-- `sreg`: ES, CS, SS, DS (R23). -/
  sreg : Vector Word 4
  /-- `cur`: the stream cursor (R25). -/
  cur : Nat
  /-- `mem`: physical memory (R26, R44). -/
  mem : Memory
  /-- `code`: the bytes of the instruction stream, fixed for a run (R24). -/
  code : List Byte
  /-- The accesses the memory bus rejects: where `AddrValid` is false (20_memory.md R55). -/
  rejects : List (PhysAddr × AccessKind)
  /-- The response of the last command (R9, R74), none before the first (log entry 6). -/
  response : Option Response
  /-- What the caller has still to ask for, the request at the command port first (R72, R75, R193, R203; log entry 4). -/
  script : List Request
  /-- The model's own counter of free values used so far; no statement rests on it (log entry 11). -/
  fresh : Nat
deriving DecidableEq, Repr

/-- Why the machine stops with no next state. Every error the spec describes is a next state (60_exceptions.md R176), so
this holds only the defect the spec calls unreachable. -/
inductive Fault where
  /-- A mode byte led to something that is no form (R98, R173): raised by `runForm` on a command, which no specifier
  decodes to, so no step answers it. Safe: nothing can be proved past it (log entry 16). -/
  | invariantViolation
deriving DecidableEq, Repr

/-- Why an instruction is given no step. -/
inductive Refusal where
  /-- The instruction has no meaning in the model: raised by an arm of `exec` only. Safe. No arm raises it now. -/
  | notModelled (mnemonic : String)
deriving DecidableEq, Repr

/-- The outcome of a step of this machine. -/
abbrev Out := Host.Outcome State Fault Refusal

/-- The machine right after power-on, which is the same as `reset` (70_reset_and_hazards.md R190): unresolved, not armed,
no fault (R29). The collaborators and the script are the launch state, for which the spec gives no values (R191): every
register 0 (log entry 7), an empty stream at cursor 0 (log entry 8), no memory byte listed (log entry 9), no access rejected
(log entry 2), no request and no response (log entries 4, 6). -/
def State.reset : State where
  resolution := .unresolved
  override := none
  fault := none
  r16 := Vector.replicate 8 0
  sreg := Vector.replicate 4 0
  cur := 0
  mem := []
  code := []
  rejects := []
  response := none
  script := []
  fresh := 0

end Sys2Proof.Machine
end

