-- ==== Sys2Proof/Machine/Ops.lean ====
section
/-! DEFINITION. The named operations over registers, segment registers, memory and the stream, the response, and taking an
error (60_exceptions.md R176). -/

namespace Sys2Proof.Machine

/-! ### Registers (10_state.md R20, R21, R23) -/

/-- `r16[i]` (R20). -/
def State.reg16 (s : State) (i : BitVec 3) : Word := s.r16[i.toFin]

/-- `r16[i] <- v` (R20). -/
def State.setReg16 (s : State) (i : BitVec 3) (v : Word) : State := { s with r16 := s.r16.set i.toFin v }

/-- Whether `r8[i]` is the high byte of its 16-bit register: `i` in 4 to 7 (R21). -/
def isHighByte (i : BitVec 3) : Bool := i.getLsbD 2

/-- The 16-bit register that holds `r8[i]`: `i`, or `i - 4` for a high byte (R21). -/
def byteHome (i : BitVec 3) : BitVec 3 := i &&& 3

/-- `r8[i]` (R21): AL, CL, DL, BL, AH, CH, DH, BH. -/
def State.reg8 (s : State) (i : BitVec 3) : Byte :=
  if isHighByte i then (s.reg16 (byteHome i)).extractLsb' 8 8 else (s.reg16 (byteHome i)).extractLsb' 0 8

/-- `r8[i] <- v` (R21): the other byte of the register stays. -/
def State.setReg8 (s : State) (i : BitVec 3) (v : Byte) : State :=
  s.setReg16 (byteHome i)
    (if isHighByte i then v ++ (s.reg16 (byteHome i)).extractLsb' 0 8
     else (s.reg16 (byteHome i)).extractLsb' 8 8 ++ v)

/-- `sreg[i]` (R23). -/
def State.seg (s : State) (i : SegIndex) : Word := s.sreg[i]

/-- `sreg[i] <- v` (R23). -/
def State.setSeg (s : State) (i : SegIndex) (v : Word) : State := { s with sreg := s.sreg.set i v }

/-- A number as a segment slot; none at or above `NSEG` (R23, R174). -/
def segSlot (n : Nat) : Option SegIndex := if h : n < 4 then some ⟨n, h⟩ else none

/-! ### Responses -/

/-- The command ends: the response is given and the request leaves the command port (00_scope.md R9). -/
def respond (r : Response) (s : State) : State := { s with response := some r, script := s.script.tail }

/-! ### Errors (60_exceptions.md R176) -/

/-- The block-local state an error leaves (R176 (d)). -/
def Aftermath.apply : Aftermath → State → State
  | .unspecified, s =>
    { s with
      resolution := Config.freeResolution s.fresh, override := Config.freeOverride s.fresh, fresh := s.fresh + 1 }
  | .unresolved, s => { s with resolution := .unresolved, override := Config.freeOverride s.fresh, fresh := s.fresh + 1 }
  | .latchKept, s => { s with resolution := Config.freeResolution s.fresh, fresh := s.fresh + 1 }
  | .unchanged, s => s

/-- Error entry (R176 (a) to (d)): the response is `error(k)` with its recorded value, `fault` takes `k` if no error was held,
and the block-local state becomes what the error leaves. Changes made before the raise stay. -/
def takeError (k : ErrorKind) (recorded : Option Nat) (left : Aftermath) (s : State) : State :=
  respond (.error k recorded) { left.apply s with fault := some (s.fault.getD k) }

/-- A command while `fault` is not 0 (R176 (e)): it responds with the kind in `fault` and changes nothing. -/
def refuse (k : ErrorKind) (s : State) : State := respond (.error k none) s

/-- The common entry of every command but `reset`: it runs only while `fault` is 0 (R176 (e), R180). -/
def whenNoFault (body : State → Out) (s : State) : Out :=
  match s.fault with
  | some k => .next (refuse k s)
  | none => body s

/-- The numeric code of the fault register (R170). -/
def faultCode : Option ErrorKind → Nat
  | none => 0
  | some .streamExhausted => 1
  | some .memoryAccessError => 2
  | some .invariantViolation => 3
  | some .registerIndexError => 4
  | some .protocolViolation => 5

/-! ### The instruction stream (20_memory.md R42, R43) -/

/-- `NextByte()` (R42): the byte at the cursor, which advances by 1; at the end of the stream it fails and the cursor stays. -/
def nextByte (s : State) : Except State (Byte × State) :=
  match s.code[s.cur]? with
  | some b => .ok (b, { s with cur := s.cur + 1 })
  | none => .error s

/-- What a failed `NextWord()` leaves: with exactly one byte left, the cursor may or may not have passed it (R43, U3). -/
def wordFetchFailed (s : State) : State :=
  if s.cur + 1 = s.code.length then
    { s with cur := if Config.freeConsumed s.fresh then s.cur + 1 else s.cur, fresh := s.fresh + 1 }
  else s

/-- `NextWord()` (R43): two bytes, the one fetched first less significant; the cursor advances by 2. -/
def nextWord (s : State) : Except State (Word × State) :=
  match s.code[s.cur]?, s.code[s.cur + 1]? with
  | some lo, some hi => .ok (hi ++ lo, { s with cur := s.cur + 2 })
  | _, _ => .error (wordFetchFailed s)

/-- The fetches `decode` makes for a specifier of a format (40_decode.md R81, R84): the mode byte, then the displacement with
one collaborator call. The state after them, in the error case as the failed fetch leaves it. -/
def fetchSpecifier (f : Format) (s : State) : Except State State :=
  match nextByte s with
  | .error s' => .error s'
  | .ok (_, s1) =>
    match f with
    | .m0 => .ok s1
    | .m8 => (nextByte s1).map Prod.snd
    | .m16 => (nextWord s1).map Prod.snd

/-! ### The memory bus (20_memory.md R46 to R49, R52, R55) -/

/-- `NewAddress(s, o)` = (s * 16 + o) mod 2^20 (R52, D5). -/
def newAddress (s o : Word) : PhysAddr := s.setWidth 20 * 16 + o.setWidth 20

/-- `AddrValid(pa, kind)` (R55). -/
def State.addrValid (s : State) (pa : PhysAddr) (kind : AccessKind) : Bool := !s.rejects.contains (pa, kind)

/-- The address of a word's high byte, the next physical address modulo 2^20 (R47, R49, D7). -/
def highByteAt (pa : PhysAddr) : PhysAddr := pa + 1

/-- Both bytes of a word may be accessed (R47, R49). -/
def State.wordValid (s : State) (pa : PhysAddr) (kind : AccessKind) : Bool :=
  s.addrValid pa kind && s.addrValid (highByteAt pa) kind

/-- `mem[pa]`. -/
def State.byteAt (s : State) (pa : PhysAddr) : Byte := s.mem.read pa.toNat

/-- `mem[pa] <- v`. -/
def State.setByteAt (s : State) (pa : PhysAddr) (v : Byte) : State := { s with mem := s.mem.write pa.toNat v }

/-- The word at `pa`, low byte at the lower address (R45, R47). -/
def State.wordAt (s : State) (pa : PhysAddr) : Word := s.byteAt (highByteAt pa) ++ s.byteAt pa

/-- The word at `pa` changed, low byte at the lower address (R45, R49). -/
def State.setWordAt (s : State) (pa : PhysAddr) (v : Word) : State :=
  (s.setByteAt pa (v.extractLsb' 0 8)).setByteAt (highByteAt pa) (v.extractLsb' 8 8)

/-- `MemRead(pa, 1)` (R46); none where the bus rejects the address. -/
def memRead8 (pa : PhysAddr) (s : State) : Option Byte := if s.addrValid pa .read then some (s.byteAt pa) else none

/-- `MemRead(pa, 2)` (R47); none where the bus rejects either byte. -/
def memRead16 (pa : PhysAddr) (s : State) : Option Word := if s.wordValid pa .read then some (s.wordAt pa) else none

/-- `MemWrite(pa, 1, v)` (R48); the state unchanged where the bus rejects the address. -/
def memWrite8 (pa : PhysAddr) (v : Byte) (s : State) : Except State State :=
  if s.addrValid pa .write then .ok (s.setByteAt pa v) else .error s

/-- `MemWrite(pa, 2, v)` (R49); where the bus rejects either byte, both bytes become unspecified (U4). -/
def memWrite16 (pa : PhysAddr) (v : Word) (s : State) : Except State State :=
  if s.wordValid pa .write then .ok (s.setWordAt pa v)
  else .error { s.setWordAt pa (Config.freeWord s.fresh) with fresh := s.fresh + 1 }

/-! ### The status read (10_state.md R18) -/

/-- What the status read shows: `fault` at any time, the rest while `fault` is 0; a field is absent where it has no meaning
(R18, U5). -/
structure Status where
  faultCode : Nat
  resolution : Option Resolution
  override : Option (Option SegIndex)
deriving DecidableEq, Repr

/-- The status read (R18). It is a function of the state, so it has no side effect. -/
def observe (s : State) : Status :=
  match s.fault with
  | some k => ⟨faultCode (some k), none, none⟩
  | none => ⟨faultCode none, some s.resolution, some s.override⟩

end Sys2Proof.Machine
end

