-- ==== Sys2Proof/Machine/Caller.lean ====
section
/-! DEFINITION. What happens at the command port besides the 14 commands: the caller's own moves on the collaborators
(70_reset_and_hazards.md R203) and an unassigned command code (30_encoding.md R72). -/

namespace Sys2Proof.Machine

/-- The caller changes a collaborator it owns (R203, R191). The block takes no part: its own state, the response and the
acceptance test are not involved, and a fetch past the end of the stream is the caller's own error (log entry 19). -/
def callerEffect (m : CallerMove) (s : State) : State :=
  match m with
  | .writeReg16 i v => s.setReg16 i v
  | .writeReg8 i v => s.setReg8 i v
  | .writeSeg i v => s.setSeg i v
  | .writeByte pa v => s.setByteAt pa v
  | .fetchByte =>
    match nextByte s with
    | .ok (_, s') => s'
    | .error s' => s'
  | .fetchWord =>
    match nextWord s with
    | .ok (_, s') => s'
    | .error s' => s'

/-- A move of the caller, which is then no longer pending. -/
def runCallerMove (m : CallerMove) (s : State) : State := { callerEffect m s with script := s.script.tail }

/-- A command code that spells no command (R72, R175): `ProtocolViolation`, or the refusal while faulted (R180). -/
def execUnassignedCode : State → Out :=
  whenNoFault fun s => .next (takeError .protocolViolation none .unspecified s)

/-- The next request of the script becomes this command, with the argument 0. -/
def State.withCommand (s : State) (code : BitVec 4) : State := { s with script := .command code 0 :: s.script.tail }

/-- The stream holds these bytes at the cursor; a stream that ends before the cursor is filled up with zeros. -/
def State.withStreamBytes (s : State) (bytes : List Byte) : State :=
  { s with
    code := s.code.take s.cur ++ List.replicate (s.cur - s.code.length) 0 ++ bytes ++ s.code.drop (s.cur + bytes.length) }

end Sys2Proof.Machine
end

