-- ==== Sys2Proof/Machine/Operands.lean ====
section
/-! DEFINITION. The operand forms' shared work: base registers, displacement, default segment, and latching the resolved
operand (40_decode.md R84 to R93, R144, R145); and the accessors' choice of operand (46_accessors.md R150). -/

namespace Sys2Proof.Machine

/-- BX (10_state.md R20). -/
def State.bx (s : State) : Word := s.reg16 Config.idxBX

/-- BP. -/
def State.bp (s : State) : Word := s.reg16 Config.idxBP

/-- SI. -/
def State.si (s : State) : Word := s.reg16 Config.idxSI

/-- DI. -/
def State.di (s : State) : Word := s.reg16 Config.idxDI

/-- An 8-bit displacement, sign-extended to 16 bits (40_decode.md R85). -/
def signExtend8 (d : Byte) : Word := d.signExtend 16

/-- The segment of an address: the pending override, else the default (R90). -/
def State.segmentFor (s : State) (default : SegIndex) : SegIndex := s.override.getD default

/-- The memory path's end (R90 to R92, R144): the segment is selected, its register read once, the physical address formed,
the operand latched, and the override cleared. -/
def resolveMemory (f : Fields) (default : SegIndex) (off : State → Word) (s : State) : State :=
  { s with
    resolution := .memory f (s.segmentFor default) (off s) (newAddress (s.seg (s.segmentFor default)) (off s))
    override := none }

/-- The register path's end (R93, R145): the fields are latched and a pending override is discarded. -/
def resolveRegister (f : Fields) (s : State) : State := { s with resolution := .register f, override := none }

/-- A whole `decode` that finds a specifier of format `f` (R80, R81, R84, R97): it fetches the specifier's bytes, resolves
the operand and responds `ok`; where the stream ends first it raises `StreamExhausted`, unresolved. -/
def specifier (f : Format) (resolve : State → State) : State → Out :=
  whenNoFault fun s =>
    match fetchSpecifier f s with
    | .error s' => .next (takeError .streamExhausted none .unresolved s')
    | .ok s' => .next (respond .ok (resolve s'))

/-- The common precondition of the accessors (46_accessors.md R150): no fault, and an operand resolved, or
`ProtocolViolation`. What then happens depends on whether the operand is a register or memory. -/
def whenResolved (onRegister : Fields → State → State) (onMemory : Fields → PhysAddr → State → State) : State → Out :=
  whenNoFault fun s =>
    match s.resolution with
    | .unresolved => .next (takeError .protocolViolation none .unspecified s)
    | .register f => .next (onRegister f s)
    | .memory f _ _ pa => .next (onMemory f pa s)

/-- An accessor of the "other" operand, the register that `regIndex` selects in both resolved states alike (R150). -/
def whenResolvedReg (body : BitVec 3 → State → State) : State → Out :=
  whenResolved (fun f => body f.regIndex) (fun f _ => body f.regIndex)

/-- An accessor of the r/m operand: the register that `memIndex` selects, or memory at the latched address (R157 to R160). -/
def whenResolvedMem (onRegister : BitVec 3 → State → State) (onMemory : PhysAddr → State → State) : State → Out :=
  whenResolved (fun f => onRegister f.memIndex) (fun _ => onMemory)

/-- The segment slot that `regIndex` selects, or `RegisterIndexError` with the index (R155, R156, R174). -/
def withSegSlot (body : SegIndex → State → State) (i : BitVec 3) (s : State) : State :=
  match segSlot i.toNat with
  | some k => body k s
  | none => takeError .registerIndexError (some i.toNat) .unspecified s

/-- The bus rejected an address of the access at `pa` (R172): the operand stays resolved. -/
def memoryAccessError (pa : PhysAddr) (s : State) : State := takeError .memoryAccessError (some pa.toNat) .unchanged s

end Sys2Proof.Machine
end

