-- ==== Sys2Proof/Machine/Accessors.lean ====
section
/-! DEFINITION. The ten accessors (spec 46_accessors.md). -/

namespace Sys2Proof.Machine

/-- `getReg8` (R151). -/
def execGetReg8 : State → Out := whenResolvedReg fun i s => respond (.okByte (s.reg8 i)) s

/-- `getReg16` (R152). -/
def execGetReg16 : State → Out := whenResolvedReg fun i s => respond (.okWord (s.reg16 i)) s

/-- `setReg8(v)` (R153). -/
def execSetReg8 (v : Byte) : State → Out := whenResolvedReg fun i s => respond .ok (s.setReg8 i v)

/-- `setReg16(v)` (R154). -/
def execSetReg16 (v : Word) : State → Out := whenResolvedReg fun i s => respond .ok (s.setReg16 i v)

/-- `getSeg` (R155). -/
def execGetSeg : State → Out := whenResolvedReg (withSegSlot fun k s => respond (.okWord (s.seg k)) s)

/-- `setSeg(v)` (R156). -/
def execSetSeg (v : Word) : State → Out := whenResolvedReg (withSegSlot fun k s => respond .ok (s.setSeg k v))

/-- `getMem8` (R157). -/
def execGetMem8 : State → Out :=
  whenResolvedMem (fun i s => respond (.okByte (s.reg8 i)) s) fun pa s =>
    match memRead8 pa s with
    | some v => respond (.okByte v) s
    | none => memoryAccessError pa s

/-- `getMem16` (R158). -/
def execGetMem16 : State → Out :=
  whenResolvedMem (fun i s => respond (.okWord (s.reg16 i)) s) fun pa s =>
    match memRead16 pa s with
    | some v => respond (.okWord v) s
    | none => memoryAccessError pa s

/-- `setMem8(v)` (R159). -/
def execSetMem8 (v : Byte) : State → Out :=
  whenResolvedMem (fun i s => respond .ok (s.setReg8 i v)) fun pa s =>
    match memWrite8 pa v s with
    | .ok s' => respond .ok s'
    | .error s' => memoryAccessError pa s'

/-- `setMem16(v)` (R160). -/
def execSetMem16 (v : Word) : State → Out :=
  whenResolvedMem (fun i s => respond .ok (s.setReg16 i v)) fun pa s =>
    match memWrite16 pa v s with
    | .ok s' => respond .ok s'
    | .error s' => memoryAccessError pa s'

end Sys2Proof.Machine
end

