-- ==== Sys2Proof/Machine/FormsMux0.lean ====
section
/-! DEFINITION. The eight forms of `mux` = 0: no displacement, and the direct address (spec 41_mux0_forms.md). -/

namespace Sys2Proof.Machine

/-- `[BX+SI]` (R100). -/
def execBxSi (r : BitVec 3) : State → Out :=
  specifier .m0 (resolveMemory ⟨0, r, 0⟩ Config.segData (fun s => s.bx + s.si))

/-- `[BX+DI]` (R101). -/
def execBxDi (r : BitVec 3) : State → Out :=
  specifier .m0 (resolveMemory ⟨0, r, 1⟩ Config.segData (fun s => s.bx + s.di))

/-- `[BP+SI]` (R102). -/
def execBpSi (r : BitVec 3) : State → Out :=
  specifier .m0 (resolveMemory ⟨0, r, 2⟩ Config.segStack (fun s => s.bp + s.si))

/-- `[BP+DI]` (R103). -/
def execBpDi (r : BitVec 3) : State → Out :=
  specifier .m0 (resolveMemory ⟨0, r, 3⟩ Config.segStack (fun s => s.bp + s.di))

/-- `[SI]` (R104). -/
def execSi (r : BitVec 3) : State → Out :=
  specifier .m0 (resolveMemory ⟨0, r, 4⟩ Config.segData (fun s => s.si))

/-- `[DI]` (R105). -/
def execDi (r : BitVec 3) : State → Out :=
  specifier .m0 (resolveMemory ⟨0, r, 5⟩ Config.segData (fun s => s.di))

/-- `[d16]` (R106). -/
def execD16 (r : BitVec 3) (v : Word) : State → Out :=
  specifier .m16 (resolveMemory ⟨0, r, 6⟩ Config.segData (fun _ => v))

/-- `[BX]` (R107). -/
def execBx (r : BitVec 3) : State → Out :=
  specifier .m0 (resolveMemory ⟨0, r, 7⟩ Config.segData (fun s => s.bx))

end Sys2Proof.Machine
end

