-- ==== Sys2Proof/Machine/FormsMux1.lean ====
section
/-! DEFINITION. The eight forms of `mux` = 1: 8-bit displacement, sign-extended (spec 42_mux1_forms.md). -/

namespace Sys2Proof.Machine

/-- `[BX+SI+d8]` (R110). -/
def execBxSiD8 (r : BitVec 3) (d : Byte) : State → Out :=
  specifier .m8 (resolveMemory ⟨1, r, 0⟩ Config.segData (fun s => s.bx + s.si + signExtend8 d))

/-- `[BX+DI+d8]` (R111). -/
def execBxDiD8 (r : BitVec 3) (d : Byte) : State → Out :=
  specifier .m8 (resolveMemory ⟨1, r, 1⟩ Config.segData (fun s => s.bx + s.di + signExtend8 d))

/-- `[BP+SI+d8]` (R112). -/
def execBpSiD8 (r : BitVec 3) (d : Byte) : State → Out :=
  specifier .m8 (resolveMemory ⟨1, r, 2⟩ Config.segStack (fun s => s.bp + s.si + signExtend8 d))

/-- `[BP+DI+d8]` (R113). -/
def execBpDiD8 (r : BitVec 3) (d : Byte) : State → Out :=
  specifier .m8 (resolveMemory ⟨1, r, 3⟩ Config.segStack (fun s => s.bp + s.di + signExtend8 d))

/-- `[SI+d8]` (R114). -/
def execSiD8 (r : BitVec 3) (d : Byte) : State → Out :=
  specifier .m8 (resolveMemory ⟨1, r, 4⟩ Config.segData (fun s => s.si + signExtend8 d))

/-- `[DI+d8]` (R115). -/
def execDiD8 (r : BitVec 3) (d : Byte) : State → Out :=
  specifier .m8 (resolveMemory ⟨1, r, 5⟩ Config.segData (fun s => s.di + signExtend8 d))

/-- `[BP+d8]` (R116). -/
def execBpD8 (r : BitVec 3) (d : Byte) : State → Out :=
  specifier .m8 (resolveMemory ⟨1, r, 6⟩ Config.segStack (fun s => s.bp + signExtend8 d))

/-- `[BX+d8]` (R117). -/
def execBxD8 (r : BitVec 3) (d : Byte) : State → Out :=
  specifier .m8 (resolveMemory ⟨1, r, 7⟩ Config.segData (fun s => s.bx + signExtend8 d))

end Sys2Proof.Machine
end

