-- ==== Sys2Proof/Machine/FormsMux2.lean ====
section
/-! DEFINITION. The eight forms of `mux` = 2: 16-bit displacement (spec 43_mux2_forms.md). -/

namespace Sys2Proof.Machine

/-- `[BX+SI+d16]` (R120). -/
def execBxSiD16 (r : BitVec 3) (v : Word) : State → Out :=
  specifier .m16 (resolveMemory ⟨2, r, 0⟩ Config.segData (fun s => s.bx + s.si + v))

/-- `[BX+DI+d16]` (R121). -/
def execBxDiD16 (r : BitVec 3) (v : Word) : State → Out :=
  specifier .m16 (resolveMemory ⟨2, r, 1⟩ Config.segData (fun s => s.bx + s.di + v))

/-- `[BP+SI+d16]` (R122). -/
def execBpSiD16 (r : BitVec 3) (v : Word) : State → Out :=
  specifier .m16 (resolveMemory ⟨2, r, 2⟩ Config.segStack (fun s => s.bp + s.si + v))

/-- `[BP+DI+d16]` (R123). -/
def execBpDiD16 (r : BitVec 3) (v : Word) : State → Out :=
  specifier .m16 (resolveMemory ⟨2, r, 3⟩ Config.segStack (fun s => s.bp + s.di + v))

/-- `[SI+d16]` (R124). -/
def execSiD16 (r : BitVec 3) (v : Word) : State → Out :=
  specifier .m16 (resolveMemory ⟨2, r, 4⟩ Config.segData (fun s => s.si + v))

/-- `[DI+d16]` (R125). -/
def execDiD16 (r : BitVec 3) (v : Word) : State → Out :=
  specifier .m16 (resolveMemory ⟨2, r, 5⟩ Config.segData (fun s => s.di + v))

/-- `[BP+d16]` (R126). -/
def execBpD16 (r : BitVec 3) (v : Word) : State → Out :=
  specifier .m16 (resolveMemory ⟨2, r, 6⟩ Config.segStack (fun s => s.bp + v))

/-- `[BX+d16]` (R127). -/
def execBxD16 (r : BitVec 3) (v : Word) : State → Out :=
  specifier .m16 (resolveMemory ⟨2, r, 7⟩ Config.segData (fun s => s.bx + v))

end Sys2Proof.Machine
end

