-- ==== Sys2Proof/Machine/FormsMux3.lean ====
section
/-! DEFINITION. The eight forms of `mux` = 3: register-direct (spec 44_mux3_forms.md). -/

namespace Sys2Proof.Machine

/-- `reg0` (R130). -/
def execReg0 (r : BitVec 3) : State → Out := specifier .m0 (resolveRegister ⟨3, r, 0⟩)

/-- `reg1` (R131). -/
def execReg1 (r : BitVec 3) : State → Out := specifier .m0 (resolveRegister ⟨3, r, 1⟩)

/-- `reg2` (R132). -/
def execReg2 (r : BitVec 3) : State → Out := specifier .m0 (resolveRegister ⟨3, r, 2⟩)

/-- `reg3` (R133). -/
def execReg3 (r : BitVec 3) : State → Out := specifier .m0 (resolveRegister ⟨3, r, 3⟩)

/-- `reg4` (R134). -/
def execReg4 (r : BitVec 3) : State → Out := specifier .m0 (resolveRegister ⟨3, r, 4⟩)

/-- `reg5` (R135). -/
def execReg5 (r : BitVec 3) : State → Out := specifier .m0 (resolveRegister ⟨3, r, 5⟩)

/-- `reg6` (R136). -/
def execReg6 (r : BitVec 3) : State → Out := specifier .m0 (resolveRegister ⟨3, r, 6⟩)

/-- `reg7` (R137). -/
def execReg7 (r : BitVec 3) : State → Out := specifier .m0 (resolveRegister ⟨3, r, 7⟩)

end Sys2Proof.Machine
end

