-- ==== Sys2Proof/Machine/DecodeCommand.lean ====
section
/-! DEFINITION. The command `decode` (spec 40_decode.md): the specifier at the cursor is decoded and its form run. -/

namespace Sys2Proof.Machine

/-- The form a mode byte dispatches to (R83). A command is no form: that branch is the spec's `InvariantViolation`, which no
specifier reaches (R98; log entry 16). -/
def runForm (i : Instr) (s : State) : Out :=
  match i with
  | .bxSi r => execBxSi r s
  | .bxDi r => execBxDi r s
  | .bpSi r => execBpSi r s
  | .bpDi r => execBpDi r s
  | .si r => execSi r s
  | .di r => execDi r s
  | .d16 r v => execD16 r v s
  | .bx r => execBx r s
  | .bxSiD8 r d => execBxSiD8 r d s
  | .bxDiD8 r d => execBxDiD8 r d s
  | .bpSiD8 r d => execBpSiD8 r d s
  | .bpDiD8 r d => execBpDiD8 r d s
  | .siD8 r d => execSiD8 r d s
  | .diD8 r d => execDiD8 r d s
  | .bpD8 r d => execBpD8 r d s
  | .bxD8 r d => execBxD8 r d s
  | .bxSiD16 r v => execBxSiD16 r v s
  | .bxDiD16 r v => execBxDiD16 r v s
  | .bpSiD16 r v => execBpSiD16 r v s
  | .bpDiD16 r v => execBpDiD16 r v s
  | .siD16 r v => execSiD16 r v s
  | .diD16 r v => execDiD16 r v s
  | .bpD16 r v => execBpD16 r v s
  | .bxD16 r v => execBxD16 r v s
  | .reg0 r => execReg0 r s
  | .reg1 r => execReg1 r s
  | .reg2 r => execReg2 r s
  | .reg3 r => execReg3 r s
  | .reg4 r => execReg4 r s
  | .reg5 r => execReg5 r s
  | .reg6 r => execReg6 r s
  | .reg7 r => execReg7 r s
  | .decode => .fault .invariantViolation
  | .armOverride _ => .fault .invariantViolation
  | .clearOverride => .fault .invariantViolation
  | .getReg8 => .fault .invariantViolation
  | .getReg16 => .fault .invariantViolation
  | .setReg8 _ => .fault .invariantViolation
  | .setReg16 _ => .fault .invariantViolation
  | .getSeg => .fault .invariantViolation
  | .setSeg _ => .fault .invariantViolation
  | .getMem8 => .fault .invariantViolation
  | .getMem16 => .fault .invariantViolation
  | .setMem8 _ => .fault .invariantViolation
  | .setMem16 _ => .fault .invariantViolation
  | .reset => .fault .invariantViolation

/-- The bytes of the stream from the cursor on. -/
def State.upcoming (s : State) : List Byte := s.code.drop s.cur

/-- A `decode` whose specifier the stream does not hold whole (R97, R171): its fetches are made as far as they go, and the
last one fails. -/
def execTruncated (f : Format) : State → Out := specifier f id

/-- `decode` (R80 to R98): refused while faulted, else the form of the specifier at the cursor, or `StreamExhausted`. -/
def execDecode : State → Out :=
  whenNoFault fun s =>
    match decodeSpecifier s.upcoming with
    | .ok (i, _) => runForm i s
    | .error (.truncated f) => execTruncated f s
    | .error (.unassignedCode _) => .fault .invariantViolation

end Sys2Proof.Machine
end

