-- ==== Sys2Proof/Machine/Override.lean ====
section
/-! DEFINITION. The commands of the segment-override latch (spec 45_segment_override.md). -/

namespace Sys2Proof.Machine

/-- `armOverride(s)` (R141, R142): the index replaces whatever was pending; at or above `NSEG` it raises
`RegisterIndexError`, and the latch is as it was (R176 (d)). -/
def execArmOverride (n : Nat) : State → Out :=
  whenNoFault fun s =>
    match segSlot n with
    | some k => .next (respond .ok { s with override := some k })
    | none => .next (takeError .registerIndexError (some n) .latchKept s)

/-- `clearOverride` (R143). -/
def execClearOverride : State → Out := whenNoFault fun s => .next (respond .ok { s with override := none })

end Sys2Proof.Machine
end

