-- ==== Sys2Proof/Machine/ResetCommand.lean ====
section
/-! DEFINITION. The command `reset` (spec 70_reset_and_hazards.md R190, R191). -/

namespace Sys2Proof.Machine

/-- `reset` (R190): accepted in every state, a faulted one included; the collaborators are not touched (R191). -/
def execReset (s : State) : Out :=
  .next (respond .ok { s with resolution := .unresolved, override := none, fault := none })

end Sys2Proof.Machine
end

