-- ==== Sys2Proof/Machine/Dispatch.lean ====
section
/-! DEFINITION. The meaning of every instruction, one arm each. -/

namespace Sys2Proof.Machine

/-- What an instruction does: a form as a whole `decode` that finds it (log entry 18), a command as its rule says. -/
def exec (i : Instr) (s : State) : Host.Outcome State Fault Refusal :=
  match i with
  | .bxSi r => Sys2Proof.Machine.execBxSi r s
  | .bxDi r => Sys2Proof.Machine.execBxDi r s
  | .bpSi r => Sys2Proof.Machine.execBpSi r s
  | .bpDi r => Sys2Proof.Machine.execBpDi r s
  | .si r => Sys2Proof.Machine.execSi r s
  | .di r => Sys2Proof.Machine.execDi r s
  | .d16 r v => Sys2Proof.Machine.execD16 r v s
  | .bx r => Sys2Proof.Machine.execBx r s
  | .bxSiD8 r d => Sys2Proof.Machine.execBxSiD8 r d s
  | .bxDiD8 r d => Sys2Proof.Machine.execBxDiD8 r d s
  | .bpSiD8 r d => Sys2Proof.Machine.execBpSiD8 r d s
  | .bpDiD8 r d => Sys2Proof.Machine.execBpDiD8 r d s
  | .siD8 r d => Sys2Proof.Machine.execSiD8 r d s
  | .diD8 r d => Sys2Proof.Machine.execDiD8 r d s
  | .bpD8 r d => Sys2Proof.Machine.execBpD8 r d s
  | .bxD8 r d => Sys2Proof.Machine.execBxD8 r d s
  | .bxSiD16 r v => Sys2Proof.Machine.execBxSiD16 r v s
  | .bxDiD16 r v => Sys2Proof.Machine.execBxDiD16 r v s
  | .bpSiD16 r v => Sys2Proof.Machine.execBpSiD16 r v s
  | .bpDiD16 r v => Sys2Proof.Machine.execBpDiD16 r v s
  | .siD16 r v => Sys2Proof.Machine.execSiD16 r v s
  | .diD16 r v => Sys2Proof.Machine.execDiD16 r v s
  | .bpD16 r v => Sys2Proof.Machine.execBpD16 r v s
  | .bxD16 r v => Sys2Proof.Machine.execBxD16 r v s
  | .reg0 r => Sys2Proof.Machine.execReg0 r s
  | .reg1 r => Sys2Proof.Machine.execReg1 r s
  | .reg2 r => Sys2Proof.Machine.execReg2 r s
  | .reg3 r => Sys2Proof.Machine.execReg3 r s
  | .reg4 r => Sys2Proof.Machine.execReg4 r s
  | .reg5 r => Sys2Proof.Machine.execReg5 r s
  | .reg6 r => Sys2Proof.Machine.execReg6 r s
  | .reg7 r => Sys2Proof.Machine.execReg7 r s
  | .decode => Sys2Proof.Machine.execDecode s
  | .armOverride n => Sys2Proof.Machine.execArmOverride n s
  | .clearOverride => Sys2Proof.Machine.execClearOverride s
  | .getReg8 => Sys2Proof.Machine.execGetReg8 s
  | .getReg16 => Sys2Proof.Machine.execGetReg16 s
  | .setReg8 v => Sys2Proof.Machine.execSetReg8 v s
  | .setReg16 v => Sys2Proof.Machine.execSetReg16 v s
  | .getSeg => Sys2Proof.Machine.execGetSeg s
  | .setSeg v => Sys2Proof.Machine.execSetSeg v s
  | .getMem8 => Sys2Proof.Machine.execGetMem8 s
  | .getMem16 => Sys2Proof.Machine.execGetMem16 s
  | .setMem8 v => Sys2Proof.Machine.execSetMem8 v s
  | .setMem16 v => Sys2Proof.Machine.execSetMem16 v s
  | .reset => Sys2Proof.Machine.execReset s

end Sys2Proof.Machine
end

