-- ==== Sys2Proof/Machine/Step.lean ====
section
/-! DEFINITION. One step of the machine: the next request of the script is served. -/

namespace Sys2Proof.Machine

/-- One step (00_scope.md R9): the command at the command port is executed as one atomic step; a move of the caller takes
effect; with no request pending the block is idle and holds its state (60_exceptions.md R186; log entry 5). -/
def step (s : State) : Host.Outcome State Fault Refusal :=
  match s.script with
  | [] => .next s
  | .command code arg :: _ =>
    match decodeCommand code arg with
    | .ok i => exec i s
    | .error _ => execUnassignedCode s
  | .caller m :: _ => .next (runCallerMove m s)

/-- The state in which the next step runs the instruction of a word of the opcode table (log entry 17). A command stands
at the command port with the argument 0, and `decode` finds zero bytes at the cursor. A form stands in the stream at the
cursor, followed by zero bytes up to the longest specifier, with the command `decode` at the port. -/
def State.withFetchWord (s : State) (nbits w : Nat) : State :=
  if tableWordIsCommand nbits w then
    if BitVec.ofNat 4 w = 0 then (s.withStreamBytes (tableBytes 0)).withCommand 0 else s.withCommand (BitVec.ofNat 4 w)
  else (s.withStreamBytes (tableBytes w)).withCommand 0

end Sys2Proof.Machine
end

