-- ==== Sys2Proof/Machine/Assembled.lean ====
section
/-! DEFINITION. The algorithm of `decode` assembled over all forms at once (40_decode.md section 9), in the terms its rules
use, `mux` and `memIndex` (R87, R89). The machine runs one meaning per form; statements compare the two. -/

namespace Sys2Proof.Machine

/-- The fields of a mode byte (30_encoding.md R61). -/
def fieldsOf (b : Byte) : Fields := ⟨muxOf b, regIndexOf b, memIndexOf b⟩

/-- The base sum (R87). -/
def baseSum (mux : BitVec 2) (memIndex : BitVec 3) (s : State) : Word :=
  if memIndex = 0 then s.bx + s.si
  else if memIndex = 1 then s.bx + s.di
  else if memIndex = 2 then s.bp + s.si
  else if memIndex = 3 then s.bp + s.di
  else if memIndex = 4 then s.si
  else if memIndex = 5 then s.di
  else if memIndex = 7 then s.bx
  else if mux = 0 then 0 else s.bp

/-- The default segment (R89): the stack segment when BP is in the base. -/
def defaultSeg (mux : BitVec 2) (memIndex : BitVec 3) : SegIndex :=
  if memIndex = 2 ∨ memIndex = 3 then Config.segStack
  else if memIndex = 6 ∧ (mux = 1 ∨ mux = 2) then Config.segStack
  else Config.segData

/-- The displacement fetch of the memory path (R84 to R86). -/
def fetchDisplacement (f : Fields) (s : State) : Except State (Word × State) :=
  if f.mux = 1 then (nextByte s).map fun p => (signExtend8 p.1, p.2)
  else if f.mux = 2 ∨ f.memIndex = 6 then nextWord s
  else .ok (0, s)

/-- The memory path after the displacement (R87 to R92, R144). -/
def finishMemory (f : Fields) (disp : Word) (s : State) : State :=
  let off := baseSum f.mux f.memIndex s + disp
  let seg := s.override.getD (defaultSeg f.mux f.memIndex)
  respond .ok { s with resolution := .memory f seg off (newAddress (s.seg seg) off), override := none }

/-- The failure of a fetch (R97). -/
def streamFailure (s : State) : State := takeError .streamExhausted none .unresolved s

/-- `decode` as 40_decode.md section 9 lists it. -/
def assembledDecode (s : State) : State :=
  match s.fault with
  | some k => refuse k s
  | none =>
    match nextByte s with
    | .error s' => streamFailure s'
    | .ok (b, s1) =>
      if muxOf b = 3 then respond .ok { s1 with resolution := .register (fieldsOf b), override := none }
      else
        match fetchDisplacement (fieldsOf b) s1 with
        | .error s' => streamFailure s'
        | .ok (disp, s2) => finishMemory (fieldsOf b) disp s2

end Sys2Proof.Machine
end

