-- ==== Sys2Proof/Machine/Run.lean ====
section
/-! DEFINITION. A run: a finite script served to its end, the responses of its commands, and whether it was good or has gone
wrong (spec 70_reset_and_hazards.md R193). -/

namespace Sys2Proof.Machine

/-- A response that is no error: `ok` or `ok(v)` (R193). -/
def Response.isOk : Response → Bool
  | .ok => true
  | .okByte _ => true
  | .okWord _ => true
  | .error _ _ => false

/-- How a run ended: what its commands responded, the first one first, and the state after its last request. -/
structure RunEnd where
  responses : List Response
  final : State
deriving DecidableEq, Repr

/-- What a request was answered, read in the state after its step: a command its response, a move of the caller nothing
(log entry 26). -/
def responseTo (q : Request) (t : State) : List Response :=
  match q with
  | .command _ _ => t.response.toList
  | .caller _ => []

/-- The requests of a script served one step each; none where a step stops. -/
def runScript : List Request → State → Option RunEnd
  | [], s => some ⟨[], s⟩
  | q :: rest, s =>
    match step s with
    | .next t => (runScript rest t).map fun e => ⟨responseTo q t ++ e.responses, e.final⟩
    | .fault _ => none
    | .refused _ => none

/-- The run of the script that a state holds, to its end (R193: it ends when the last command has responded). -/
def run (s : State) : Option RunEnd := runScript s.script s

/-- Every command of the run responded `ok` or `ok(v)` (R193). -/
def RunEnd.isGood (e : RunEnd) : Bool := e.responses.all Response.isOk

/-- Some command of the run responded with an error (R193), whether or not a later `reset` cleared the fault. -/
def RunEnd.wentWrong (e : RunEnd) : Bool := e.responses.any fun r => !r.isOk

/-- The run from this state is good (R193). -/
abbrev GoodRun (s : State) : Prop := (run s).any RunEnd.isGood = true

/-- The run from this state goes wrong (R193). -/
abbrev GoneWrong (s : State) : Prop := (run s).any RunEnd.wentWrong = true

end Sys2Proof.Machine
end

