-- ==== Sys2Proof/Safety.lean ====
section
/-! DEFINITION. What counts as a state without fault and as a good response, the invariant of the machine, and the words
the statements use. -/

namespace Sys2Proof.Machine

/-- No error is held: `fault` is 0. This is a property of one state, since the last reset (10_state.md R16). Whether a whole run
is good or has gone wrong is said over its responses, by `GoodRun` and `GoneWrong` (70_reset_and_hazards.md R193). -/
abbrev Good (s : State) : Prop := s.fault = none

/-- The command just run responded `ok` or `ok(v)`. -/
abbrev RespondedOk (s : State) : Prop := s.response.any Response.isOk = true

/-- The latched fields, in both resolved states alike. -/
def Resolution.fields : Resolution → Option Fields
  | .unresolved => none
  | .register f => some f
  | .memory f _ _ _ => some f

/-- The resolved operand agrees with the latched `mux`, and a memory operand's physical address with its offset, for some
value of its segment register (10_state.md R17 (a) to (c)). -/
def Resolution.Consistent : Resolution → Prop
  | .unresolved => True
  | .register f => f.mux = 3
  | .memory f _ off pa => f.mux ≠ 3 ∧ ∃ segValue : Word, pa = newAddress segValue off

/-- The invariant of the machine: memory is in canonical form, the cursor is within the stream (R25), and the resolved
operand of a machine without fault is consistent (R17). -/
structure Inv (s : State) : Prop where
  memory : s.mem.wf = true
  cursor : s.cur ≤ s.code.length
  operand : Good s → s.resolution.Consistent

/-- The state after a `decode` of a memory form with `length` bytes that succeeds: the cursor, the operand, the override, the
response and the script differ from before, nothing else does (R92, R94, R95). -/
def decodedMemory (s : State) (length : Nat) (f : Fields) (default : SegIndex) (off : Word) : State :=
  { s with
    cur := s.cur + length
    resolution := .memory f (s.override.getD default) off (newAddress (s.seg (s.override.getD default)) off)
    override := none
    response := some .ok
    script := s.script.tail }

/-- The state after a `decode` of a register-direct form that succeeds (R93, R94, R145). -/
def decodedRegister (s : State) (f : Fields) : State :=
  { s with
    cur := s.cur + 1
    resolution := .register f
    override := none
    response := some .ok
    script := s.script.tail }

/-- The collaborators and the launch configuration are as before: registers, segment registers, cursor, every byte of
memory, the stream and the acceptance test. -/
structure SameCollaborators (s t : State) : Prop where
  r16 : t.r16 = s.r16
  sreg : t.sreg = s.sreg
  cur : t.cur = s.cur
  bytes : ∀ a, t.mem.read a = s.mem.read a
  code : t.code = s.code
  rejects : t.rejects = s.rejects

/-- An error was raised in a machine without fault (60_exceptions.md R176 (a), (c)). -/
structure Raised (k : ErrorKind) (recorded : Option Nat) (s t : State) : Prop where
  response : t.response = some (.error k recorded)
  fault : t.fault = some k
  script : t.script = s.script.tail

/-- The ten accessors (46_accessors.md). -/
def isAccessor : Instr → Bool
  | .getReg8 => true
  | .getReg16 => true
  | .setReg8 _ => true
  | .setReg16 _ => true
  | .getSeg => true
  | .setSeg _ => true
  | .getMem8 => true
  | .getMem16 => true
  | .setMem8 _ => true
  | .setMem16 _ => true
  | _ => false

/-- The instruction resolves an operand: the command `decode`, or a form of it. -/
def isDecode (i : Instr) : Bool := i.isForm || decide (i = .decode)

/-- A base register sum as a natural number, before `mod 2^16` (R87). -/
def baseNat (f : Fields) (s : State) : Nat :=
  match f.memIndex.toNat with
  | 0 => s.bx.toNat + s.si.toNat
  | 1 => s.bx.toNat + s.di.toNat
  | 2 => s.bp.toNat + s.si.toNat
  | 3 => s.bp.toNat + s.di.toNat
  | 4 => s.si.toNat
  | 5 => s.di.toNat
  | 6 => if f.mux = 0 then 0 else s.bp.toNat
  | _ => s.bx.toNat

/-- The displacement as an integer, from the stream bytes after the mode byte (R84 to R86): none, one two's-complement byte, or
a little-endian word. -/
def dispInt (f : Fields) (s : State) : Int :=
  match formatOf f.mux f.memIndex with
  | .m0 => 0
  | .m8 => (s.code.getD (s.cur + 1) 0).toInt
  | .m16 => (s.code.getD (s.cur + 1) 0).toNat + 256 * (s.code.getD (s.cur + 2) 0).toNat

end Sys2Proof.Machine
end

