-- ==== Sys2Proof/Certificates/Slice0/Obligations.lean ====
section
/-! DEFINITION. The statements about the machine, from the numbered rules of the spec. -/

open Sys2Proof Sys2Proof.Machine

/-! ### Serving the command port -/

/-- A step executes the command at the command port as one atomic step (00_scope.md R9, 30_encoding.md R72; that
pending commands are held in the script is the model's own choice, log entry 4). -/
def Obligations.StepServesTheCommandAtThePort : Prop :=
  ∀ (s : State) (code : BitVec 4) (arg : Word) (rest : List Request) (i : Instr),
    s.script = .command code arg :: rest → decodeCommand code arg = .ok i → step s = exec i s

/-- With the command `decode` at the port, a step runs the form whose specifier stands in the stream at the cursor (40_decode.md
R80 to R83; that a form is an instruction of its own is the model's choice, log entry 18). -/
def Obligations.StepRunsTheSpecifierAtTheCursor : Prop :=
  ∀ (s : State) (arg : Word) (rest : List Request) (i : Instr) (after : List Byte),
    s.script = .command 0 arg :: rest → decodeSpecifier s.upcoming = .ok (i, after) → step s = exec i s

/-- The codes 0xE and 0xF spell no command and respond `error(ProtocolViolation)` (30_encoding.md R72); the collaborators stay.
That it is this error is the spec's own decision D13, and what it leaves D12. -/
def Obligations.UnassignedCodesRaiseProtocolViolation : Prop :=
  ∀ (s : State) (code : BitVec 4) (arg : Word) (rest : List Request),
    s.script = .command code arg :: rest → code = 14 ∨ code = 15 → Good s →
      ∃ t, step s = .next t ∧ Raised .protocolViolation none s t ∧ SameCollaborators s t

/-- Idle between commands, the block holds its state (60_exceptions.md R186); that a step with no request pending is this
idling is the model's own choice (log entry 5). -/
def Obligations.IdleStepHoldsTheState : Prop := ∀ s : State, s.script = [] → step s = .next s

/-- What the caller may change between commands, and that a move changes nothing else (70_reset_and_hazards.md R203; that the
moves are entries of the script is the model's own choice, log entry 19). -/
def Obligations.CallerMovesChangeOnlyTheirTarget : Prop :=
  ∀ (s : State) (rest : List Request),
    (∀ i v, s.script = .caller (.writeReg16 i v) :: rest →
      step s = .next { s with r16 := s.r16.set i.toFin v, script := rest }) ∧
    (∀ i v, s.script = .caller (.writeReg8 i v) :: rest →
      step s = .next { s with r16 := (s.setReg8 i v).r16, script := rest }) ∧
    (∀ i v, s.script = .caller (.writeSeg i v) :: rest →
      step s = .next { s with sreg := s.sreg.set i v, script := rest }) ∧
    (∀ pa v, s.script = .caller (.writeByte pa v) :: rest →
      step s = .next { s with mem := s.mem.write pa.toNat v, script := rest }) ∧
    (s.script = .caller .fetchByte :: rest → s.cur + 1 ≤ s.code.length →
      step s = .next { s with cur := s.cur + 1, script := rest }) ∧
    (s.script = .caller .fetchWord :: rest → s.cur + 2 ≤ s.code.length →
      step s = .next { s with cur := s.cur + 2, script := rest })

/-! ### Encoding -/

/-- A few specifiers and commands as the spec writes their encodings (30_encoding.md R60, R67, R72; 95_test_vectors.md). -/
def Obligations.SampleEncodingsDecode : Prop :=
  decodeSpecifier [0b00000000] = .ok (.bxSi 0, []) ∧
  decodeSpecifier [0b00001111] = .ok (.bx 1, []) ∧
  decodeSpecifier [0b00000110, 0x34, 0x12] = .ok (.d16 0 0x1234, []) ∧
  decodeSpecifier [0b01000110, 0x05] = .ok (.bpD8 0 0x05, []) ∧
  decodeSpecifier [0b10000000, 0x34, 0x12] = .ok (.bxSiD16 0 0x1234, []) ∧
  decodeSpecifier [0b11011001] = .ok (.reg1 3, []) ∧
  decodeCommand 0b0001 2 = .ok (.armOverride 2) ∧
  decodeCommand 0b1100 0xBEEF = .ok (.setMem16 0xBEEF)

/-- Decoding the bytes of a form gives the form back, whatever bytes follow (30_encoding.md R60 to R67). -/
def Obligations.SpecifierRoundTrip : Prop :=
  ∀ (i : Instr) (rest : List Byte), i.isForm = true → decodeSpecifier (encodeSpecifier i ++ rest) = .ok (i, rest)

/-- Decoding the request of a well-formed command gives the command back (30_encoding.md R72; the codes are the spec's decision
D16, the 16-bit argument word is the model's choice, log entry 4). -/
def Obligations.CommandRoundTrip : Prop :=
  ∀ i : Instr, i.isForm = false → i.wf = true → decodeEncoded (encode i) = .ok (i, [])

/-- Bytes that decode are the encoding of what they decode to, followed by what is left: every specifier has one spelling
(30_encoding.md R61, R69). -/
def Obligations.DecodedSpecifierIsItsEncoding : Prop :=
  ∀ (bytes rest : List Byte) (i : Instr),
    decodeSpecifier bytes = .ok (i, rest) → i.isForm = true ∧ bytes = encodeSpecifier i ++ rest

/-- Every mode byte is legal, and so is every displacement: with two bytes after it, any byte begins a specifier of one byte and
its displacement bytes (30_encoding.md R69). -/
def Obligations.EveryModeByteIsLegal : Prop :=
  ∀ (b d1 d2 : Byte) (rest : List Byte), ∃ i : Instr, i.isForm = true ∧
    decodeSpecifier (b :: d1 :: d2 :: rest) =
      .ok (i, (d1 :: d2 :: rest).drop (formatOf (muxOf b) (memIndexOf b)).dispBytes)

/-- The length of a specifier is a function of its first byte alone, of `mux` and `memIndex` and never of `regIndex`
(30_encoding.md R65). -/
def Obligations.LengthIsAFunctionOfTheModeByte : Prop :=
  ∀ (i : Instr), i.isForm = true → ∃ (b : Byte) (disp : List Byte), encodeSpecifier i = b :: disp ∧
    disp.length =
      (if muxOf b = 2 then 2
       else if muxOf b = 0 ∧ memIndexOf b = 6 then 2
       else if muxOf b = 1 then 1
       else 0)

/-! ### The forms -/

/-- The seven forms of `mux` 0 without displacement complete: offset, default segment unless overridden, physical address, the
cursor advanced by 1, the override cleared, nothing else changed (41_mux0_forms.md R100 to R105, R107;
register indices, segments and address formation are the spec's decisions D1, D3, D5). -/
def Obligations.MuxZeroBaseFormsResolve : Prop :=
  ∀ (s : State) (r : BitVec 3), Good s → s.cur + 1 ≤ s.code.length →
    exec (.bxSi r) s = .next (decodedMemory s 1 ⟨0, r, 0⟩ Config.segData (s.bx + s.si)) ∧
    exec (.bxDi r) s = .next (decodedMemory s 1 ⟨0, r, 1⟩ Config.segData (s.bx + s.di)) ∧
    exec (.bpSi r) s = .next (decodedMemory s 1 ⟨0, r, 2⟩ Config.segStack (s.bp + s.si)) ∧
    exec (.bpDi r) s = .next (decodedMemory s 1 ⟨0, r, 3⟩ Config.segStack (s.bp + s.di)) ∧
    exec (.si r) s = .next (decodedMemory s 1 ⟨0, r, 4⟩ Config.segData (s.si)) ∧
    exec (.di r) s = .next (decodedMemory s 1 ⟨0, r, 5⟩ Config.segData (s.di)) ∧
    exec (.bx r) s = .next (decodedMemory s 1 ⟨0, r, 7⟩ Config.segData (s.bx))

/-- The direct address completes, with no register read and the cursor advanced by 3 (41_mux0_forms.md R106; segments and
address formation are the spec's decisions D3, D5). -/
def Obligations.DirectAddressFormResolves : Prop :=
  ∀ (s : State) (r : BitVec 3) (v : Word), Good s → s.cur + 3 ≤ s.code.length →
    exec (.d16 r v) s = .next (decodedMemory s 3 ⟨0, r, 6⟩ Config.segData (v))

/-- The eight forms with a sign-extended 8-bit displacement complete, the cursor advanced by 2 (42_mux1_forms.md R110 to R117;
register indices, segments and address formation are the spec's decisions D1, D3, D5). -/
def Obligations.MuxOneFormsResolve : Prop :=
  ∀ (s : State) (r : BitVec 3) (d : Byte), Good s → s.cur + 2 ≤ s.code.length →
    exec (.bxSiD8 r d) s = .next (decodedMemory s 2 ⟨1, r, 0⟩ Config.segData (s.bx + s.si + signExtend8 d)) ∧
    exec (.bxDiD8 r d) s = .next (decodedMemory s 2 ⟨1, r, 1⟩ Config.segData (s.bx + s.di + signExtend8 d)) ∧
    exec (.bpSiD8 r d) s = .next (decodedMemory s 2 ⟨1, r, 2⟩ Config.segStack (s.bp + s.si + signExtend8 d)) ∧
    exec (.bpDiD8 r d) s = .next (decodedMemory s 2 ⟨1, r, 3⟩ Config.segStack (s.bp + s.di + signExtend8 d)) ∧
    exec (.siD8 r d) s = .next (decodedMemory s 2 ⟨1, r, 4⟩ Config.segData (s.si + signExtend8 d)) ∧
    exec (.diD8 r d) s = .next (decodedMemory s 2 ⟨1, r, 5⟩ Config.segData (s.di + signExtend8 d)) ∧
    exec (.bpD8 r d) s = .next (decodedMemory s 2 ⟨1, r, 6⟩ Config.segStack (s.bp + signExtend8 d)) ∧
    exec (.bxD8 r d) s = .next (decodedMemory s 2 ⟨1, r, 7⟩ Config.segData (s.bx + signExtend8 d))

/-- The eight forms with a 16-bit displacement complete, the cursor advanced by 3 (43_mux2_forms.md R120 to R127; register
indices, segments and address formation are the spec's decisions D1, D3, D5). -/
def Obligations.MuxTwoFormsResolve : Prop :=
  ∀ (s : State) (r : BitVec 3) (v : Word), Good s → s.cur + 3 ≤ s.code.length →
    exec (.bxSiD16 r v) s = .next (decodedMemory s 3 ⟨2, r, 0⟩ Config.segData (s.bx + s.si + v)) ∧
    exec (.bxDiD16 r v) s = .next (decodedMemory s 3 ⟨2, r, 1⟩ Config.segData (s.bx + s.di + v)) ∧
    exec (.bpSiD16 r v) s = .next (decodedMemory s 3 ⟨2, r, 2⟩ Config.segStack (s.bp + s.si + v)) ∧
    exec (.bpDiD16 r v) s = .next (decodedMemory s 3 ⟨2, r, 3⟩ Config.segStack (s.bp + s.di + v)) ∧
    exec (.siD16 r v) s = .next (decodedMemory s 3 ⟨2, r, 4⟩ Config.segData (s.si + v)) ∧
    exec (.diD16 r v) s = .next (decodedMemory s 3 ⟨2, r, 5⟩ Config.segData (s.di + v)) ∧
    exec (.bpD16 r v) s = .next (decodedMemory s 3 ⟨2, r, 6⟩ Config.segStack (s.bp + v)) ∧
    exec (.bxD16 r v) s = .next (decodedMemory s 3 ⟨2, r, 7⟩ Config.segData (s.bx + v))

/-- The eight register-direct forms complete, the cursor advanced by 1 and a pending override discarded (44_mux3_forms.md R130 to
R137). -/
def Obligations.MuxThreeFormsResolve : Prop :=
  ∀ (s : State) (r : BitVec 3), Good s → s.cur + 1 ≤ s.code.length →
    exec (.reg0 r) s = .next (decodedRegister s ⟨3, r, 0⟩) ∧
    exec (.reg1 r) s = .next (decodedRegister s ⟨3, r, 1⟩) ∧
    exec (.reg2 r) s = .next (decodedRegister s ⟨3, r, 2⟩) ∧
    exec (.reg3 r) s = .next (decodedRegister s ⟨3, r, 3⟩) ∧
    exec (.reg4 r) s = .next (decodedRegister s ⟨3, r, 4⟩) ∧
    exec (.reg5 r) s = .next (decodedRegister s ⟨3, r, 5⟩) ∧
    exec (.reg6 r) s = .next (decodedRegister s ⟨3, r, 6⟩) ∧
    exec (.reg7 r) s = .next (decodedRegister s ⟨3, r, 7⟩)

/-- A form whose specifier the stream does not hold whole raises `StreamExhausted`, unresolved, with no register and no memory
byte changed (40_decode.md R97, 60_exceptions.md R171, R178; the sticky fault is the spec's decision D12). -/
def Obligations.FormsTrapAtTheEndOfTheStream : Prop :=
  ∀ (i : Instr) (s : State), i.isForm = true → Good s → s.code.length < s.cur + (encodeSpecifier i).length →
    ∃ t, exec i s = .next t ∧ Raised .streamExhausted none s t ∧ t.resolution = .unresolved ∧
      t.r16 = s.r16 ∧ t.sreg = s.sreg ∧ t.mem = s.mem ∧ t.code = s.code ∧ t.rejects = s.rejects

/-! ### The command `decode` -/

/-- The 32 forms together are the algorithm the spec assembles from `mux` and `memIndex` (40_decode.md section 9), in every state:
faulted, at the end of the stream, and completing. -/
def Obligations.DecodeIsTheAssembledAlgorithm : Prop := ∀ s : State, exec .decode s = .next (assembledDecode s)

/-- A `decode` that finds its specifier whole completes: the cursor advances by exactly one and the displacement bytes, the latch
is clear, and the operand is of the class `mux` says (40_decode.md R83, R92 to R94). -/
def Obligations.DecodeCompletes : Prop :=
  ∀ (s : State) (b : Byte), Good s → s.code[s.cur]? = some b →
    s.cur + 1 + (formatOf (muxOf b) (memIndexOf b)).dispBytes ≤ s.code.length →
      ∃ t, exec .decode s = .next t ∧ t.response = some .ok ∧ Good t ∧ t.override = none ∧
        t.cur = s.cur + 1 + (formatOf (muxOf b) (memIndexOf b)).dispBytes ∧
        t.resolution.fields = some (fieldsOf b) ∧
        (muxOf b = 3 → t.resolution = .register (fieldsOf b)) ∧
        (muxOf b ≠ 3 → ∃ seg off pa, t.resolution = .memory (fieldsOf b) seg off pa)

/-- The offset a `decode` latches is the base plus the displacement modulo 2^16, the displacement a signed byte, a little-endian
word, or none (40_decode.md R85 to R88). -/
def Obligations.EffectiveAddressIsModular : Prop :=
  ∀ (s t : State) (f : Fields) (seg : SegIndex) (off : Word) (pa : PhysAddr),
    Good s → exec .decode s = .next t → RespondedOk t → t.resolution = .memory f seg off pa →
      (off.toNat : Int) = (baseNat f s + dispInt f s) % 65536

/-- The segment a `decode` latches is the pending override if one is armed; otherwise the stack segment when BP is in the base
(`memIndex` 2, 3, and 6 with `mux` 1 or 2), and the data segment in all other forms (40_decode.md R89, R90). -/
def Obligations.SegmentSelection : Prop :=
  ∀ (s t : State) (f : Fields) (seg : SegIndex) (off : Word) (pa : PhysAddr),
    Good s → exec .decode s = .next t → RespondedOk t → t.resolution = .memory f seg off pa →
      (∀ k, s.override = some k → seg = k) ∧
      (s.override = none → f.memIndex = 2 ∨ f.memIndex = 3 ∨ (f.memIndex = 6 ∧ f.mux ≠ 0) → seg = Config.segStack) ∧
      (s.override = none → ¬(f.memIndex = 2 ∨ f.memIndex = 3 ∨ (f.memIndex = 6 ∧ f.mux ≠ 0)) → seg = Config.segData)

/-- The physical address is formed inside `decode` from the segment register's value and the offset (40_decode.md R91); as a
number it is (segment * 16 + offset) mod 2^20 (20_memory.md R52, the spec's decision D5). -/
def Obligations.PhysicalAddressIsFormedAtDecode : Prop :=
  ∀ (s t : State) (f : Fields) (seg : SegIndex) (off : Word) (pa : PhysAddr),
    Good s → exec .decode s = .next t → RespondedOk t → t.resolution = .memory f seg off pa →
      pa.toNat = ((s.seg seg).toNat * 16 + off.toNat) % 1048576

/-- A `decode` reads no memory and asks the bus nothing: with other bytes and another acceptance test it does the same
(40_decode.md R91, R95). -/
def Obligations.DecodeDoesNotReadMemory : Prop :=
  ∀ (s t : State) (m : Memory) (rej : List (PhysAddr × AccessKind)),
    exec .decode s = .next t → exec .decode { s with mem := m, rejects := rej } = .next { t with mem := m, rejects := rej }

/-- A `decode` and every form write no general register, no segment register and no byte of memory, whatever their outcome
(40_decode.md R95). -/
def Obligations.DecodeFrame : Prop :=
  ∀ (i : Instr) (s t : State), isDecode i = true → exec i s = .next t →
    t.r16 = s.r16 ∧ t.sreg = s.sreg ∧ (∀ a, t.mem.read a = s.mem.read a) ∧ t.code = s.code ∧ t.rejects = s.rejects ∧
      t.script = s.script.tail

/-- A `decode` that runs out of stream raises `StreamExhausted`: at the mode byte with the cursor as it was; with no displacement
byte there, after the mode byte alone; with one of two bytes there, at one of two places (20_memory.md R43, 40_decode.md R97,
60_exceptions.md R171; the sticky fault is the spec's decision D12, the open cursor D9). -/
def Obligations.DecodeTrapsAtTheEndOfTheStream : Prop :=
  ∀ s : State, Good s →
    (s.code.length ≤ s.cur →
      ∃ t, exec .decode s = .next t ∧ Raised .streamExhausted none s t ∧ t.resolution = .unresolved ∧ t.cur = s.cur) ∧
    ∀ b, s.code[s.cur]? = some b →
      (s.code.length = s.cur + 1 → formatOf (muxOf b) (memIndexOf b) ≠ .m0 →
        ∃ t, exec .decode s = .next t ∧ Raised .streamExhausted none s t ∧ t.resolution = .unresolved ∧
          t.cur = s.cur + 1) ∧
      (s.code.length = s.cur + 2 → formatOf (muxOf b) (memIndexOf b) = .m16 →
        ∃ t, exec .decode s = .next t ∧ Raised .streamExhausted none s t ∧ t.resolution = .unresolved ∧
          (t.cur = s.cur + 1 ∨ t.cur = s.cur + 2))

/-! ### The override -/

/-- A successful `decode` of a memory form uses a pending override in place of the default segment, and every successful `decode`
leaves the latch clear before it responds (45_segment_override.md R144). -/
def Obligations.OverrideIsUsedOnceAndCleared : Prop :=
  ∀ (s t : State), Good s → exec .decode s = .next t → RespondedOk t →
    t.override = none ∧
    ∀ f seg off pa, t.resolution = .memory f seg off pa → seg = s.override.getD (defaultSeg f.mux f.memIndex)

/-- A successful register-direct `decode` discards a pending override: it ends as it would have with none (45_segment_override.md
R145; the flag U1 for a real 8086 is log entry 14). -/
def Obligations.RegisterDecodeDiscardsTheOverride : Prop :=
  ∀ (s t : State) (f : Fields), Good s → exec .decode s = .next t → t.resolution = .register f →
    t.override = none ∧ ∀ o, exec .decode { s with override := o } = .next t

/-- An override affects one `decode`: after any successful one, the next takes the default segment (45_segment_override.md R146,
which the spec derives from R144). -/
def Obligations.OverrideAffectsOneDecodeOnly : Prop :=
  ∀ (s t u : State) (f : Fields) (seg : SegIndex) (off : Word) (pa : PhysAddr),
    Good s → exec .decode s = .next t → RespondedOk t → exec .decode t = .next u → RespondedOk u →
      u.resolution = .memory f seg off pa → seg = defaultSeg f.mux f.memIndex

/-- The override's index is latched at arming and the register's value read by the `decode`: a write of that segment register
between the two is seen (45_segment_override.md R141). -/
def Obligations.OverrideReadsTheSegmentAtDecode : Prop :=
  ∀ (s a t : State) (k : SegIndex) (value : Word) (f : Fields) (seg : SegIndex) (off : Word) (pa : PhysAddr),
    Good s → exec (.armOverride k.val) s = .next a → exec .decode (a.setSeg k value) = .next t → RespondedOk t →
      t.resolution = .memory f seg off pa → seg = k ∧ pa = newAddress value off

/-- `armOverride(s)` with a segment slot completes: the latch holds the index, whatever it held before, and nothing else changes
(45_segment_override.md R141, R142; re-arming is the spec's decision D11). -/
def Obligations.ArmOverrideLatchesTheIndex : Prop :=
  ∀ (s : State) (n : Nat) (h : n < 4), Good s →
    exec (.armOverride n) s =
      .next { s with override := some ⟨n, h⟩, response := some .ok, script := s.script.tail }

/-- `armOverride(s)` with an index at or above `NSEG` raises `RegisterIndexError` with the index, and the latch is as it was
(45_segment_override.md R141, 60_exceptions.md R176 (d); the spec's decisions D4 and D12, log entry 24). -/
def Obligations.ArmOverrideTrapsAboveTheSlots : Prop :=
  ∀ (s : State) (n : Nat), 4 ≤ n → Good s →
    ∃ t, exec (.armOverride n) s = .next t ∧ Raised .registerIndexError (some n) s t ∧ t.override = s.override ∧
      SameCollaborators s t

/-- `clearOverride` completes in every resolution state: the latch is clear, nothing else changes (45_segment_override.md R143;
the command is the spec's decision D11). -/
def Obligations.ClearOverrideCompletes : Prop :=
  ∀ s : State, Good s →
    exec .clearOverride s = .next { s with override := none, response := some .ok, script := s.script.tail }

/-! ### The accessors -/

/-- `getReg8` and `getReg16` return the register that `regIndex` selects, in both resolved states alike, and change nothing but
the response (46_accessors.md R151, R152; which byte an 8-bit register is is the spec's decision D2). -/
def Obligations.GetRegReturnsTheRegIndexRegister : Prop :=
  ∀ (s : State) (f : Fields), Good s → s.resolution.fields = some f →
    exec .getReg8 s = .next { s with response := some (.okByte (s.reg8 f.regIndex)), script := s.script.tail } ∧
    exec .getReg16 s = .next { s with response := some (.okWord (s.reg16 f.regIndex)), script := s.script.tail }

/-- `setReg8` and `setReg16` write the register that `regIndex` selects, in both resolved states alike: an 8-bit write leaves the
other byte of its 16-bit register, and every other register, memory and the latched operand stay (46_accessors.md R153, R154; which
byte is which is the spec's decision D2). -/
def Obligations.SetRegWritesTheRegIndexRegister : Prop :=
  ∀ (s : State) (f : Fields), Good s → s.resolution.fields = some f →
    (∀ v, exec (.setReg16 v) s =
      .next { s with r16 := s.r16.set f.regIndex.toFin v, response := some .ok, script := s.script.tail }) ∧
    (∀ v, f.regIndex < 4 → exec (.setReg8 v) s =
      .next { s with
        r16 := s.r16.set f.regIndex.toFin ((s.reg16 f.regIndex).extractLsb' 8 8 ++ v)
        response := some .ok, script := s.script.tail }) ∧
    (∀ v, 4 ≤ f.regIndex → exec (.setReg8 v) s =
      .next { s with
        r16 := s.r16.set (f.regIndex - 4).toFin (v ++ (s.reg16 (f.regIndex - 4)).extractLsb' 0 8)
        response := some .ok, script := s.script.tail })

/-- `getSeg` and `setSeg` read and write the segment register that `regIndex` selects when it is a slot; a `setSeg` changes no
other register, no memory and not the latched operand (46_accessors.md R155, R156; the four slots are the spec's decision D3). -/
def Obligations.SegAccessorsUseTheRegIndexSlot : Prop :=
  ∀ (s : State) (f : Fields) (h : f.regIndex.toNat < 4), Good s → s.resolution.fields = some f →
    exec .getSeg s =
      .next { s with response := some (.okWord (s.seg ⟨f.regIndex.toNat, h⟩)), script := s.script.tail } ∧
    ∀ v, exec (.setSeg v) s =
      .next { s with
        sreg := s.sreg.set f.regIndex.toNat v h, response := some .ok, script := s.script.tail }

/-- `getSeg` and `setSeg` with `regIndex` at or above `NSEG` raise `RegisterIndexError` with the index and change no collaborator
(46_accessors.md R155, R156; the spec's decisions D4 and D12). -/
def Obligations.SegAccessorsTrapAboveTheSlots : Prop :=
  ∀ (i : Instr) (s : State) (f : Fields), i = .getSeg ∨ (∃ v, i = .setSeg v) → 4 ≤ f.regIndex.toNat → Good s →
    s.resolution.fields = some f →
      ∃ t, exec i s = .next t ∧ Raised .registerIndexError (some f.regIndex.toNat) s t ∧ SameCollaborators s t

/-- With a register operand the four r/m accessors read and write the register that `memIndex` selects; an 8-bit write leaves the
other byte (46_accessors.md R157 to R160, 44_mux3_forms.md; which byte is which is the spec's decision D2). -/
def Obligations.MemAccessorsReachTheRegisterOperand : Prop :=
  ∀ (s : State) (f : Fields), Good s → s.resolution = .register f →
    exec .getMem8 s = .next { s with response := some (.okByte (s.reg8 f.memIndex)), script := s.script.tail } ∧
    exec .getMem16 s = .next { s with response := some (.okWord (s.reg16 f.memIndex)), script := s.script.tail } ∧
    (∀ v, exec (.setMem16 v) s =
      .next { s with r16 := s.r16.set f.memIndex.toFin v, response := some .ok, script := s.script.tail }) ∧
    (∀ v, f.memIndex < 4 → exec (.setMem8 v) s =
      .next { s with
        r16 := s.r16.set f.memIndex.toFin ((s.reg16 f.memIndex).extractLsb' 8 8 ++ v)
        response := some .ok, script := s.script.tail }) ∧
    (∀ v, 4 ≤ f.memIndex → exec (.setMem8 v) s =
      .next { s with
        r16 := s.r16.set (f.memIndex - 4).toFin (v ++ (s.reg16 (f.memIndex - 4)).extractLsb' 0 8)
        response := some .ok, script := s.script.tail })

/-- With a memory operand the bus accepts, `getMem8` returns the byte at `res_phys` and `getMem16` that byte and the one at the
next physical address, modulo 2^20, as the high byte; nothing but the response changes (46_accessors.md R157, R158, 20_memory.md
R46, R47; the place of the high byte, offset 0xFFFF included, is the spec's decision D7 and log entry 15, the model's own choice). -/
def Obligations.GetMemReadsTheLatchedAddress : Prop :=
  ∀ (s : State) (f : Fields) (seg : SegIndex) (off : Word) (pa : PhysAddr), Good s →
    s.resolution = .memory f seg off pa → s.addrValid pa .read = true →
      exec .getMem8 s =
        .next { s with response := some (.okByte (s.mem.read pa.toNat)), script := s.script.tail } ∧
      (s.addrValid (pa + 1) .read = true →
        exec .getMem16 s =
          .next { s with
            response := some (.okWord (s.mem.read ((pa.toNat + 1) % 1048576) ++ s.mem.read pa.toNat))
            script := s.script.tail })

/-- With a memory operand the bus accepts, `setMem8` and `setMem16` complete, writing the byte at `res_phys`, and for a word the
high byte at the next physical address; nothing else changes (46_accessors.md R159, R160, 20_memory.md R48, R49; the place of the
high byte, offset 0xFFFF included, is the spec's decision D7 and log entry 15, the model's own choice). -/
def Obligations.SetMemWritesTheLatchedAddress : Prop :=
  ∀ (s : State) (f : Fields) (seg : SegIndex) (off : Word) (pa : PhysAddr), Good s →
    s.resolution = .memory f seg off pa → s.addrValid pa .write = true →
      (∀ v, exec (.setMem8 v) s =
        .next { s with mem := s.mem.write pa.toNat v, response := some .ok, script := s.script.tail }) ∧
      (s.addrValid (pa + 1) .write = true → ∀ v, exec (.setMem16 v) s =
        .next { s with
          mem := (s.mem.write pa.toNat (v.extractLsb' 0 8)).write ((pa.toNat + 1) % 1048576) (v.extractLsb' 8 8)
          response := some .ok
          script := s.script.tail })

/-- Where the bus rejects a byte of the access, `getMem8`, `getMem16` and `setMem8` of a memory operand raise `MemoryAccessError`
with `res_phys` and change nothing else: the operand, the latch and memory are as they were (60_exceptions.md R172, R180; the sticky
fault is the spec's decision D12; which byte is a word's high one, offset 0xFFFF included, is its decision D7 and log entry 15, the
model's own choice). -/
def Obligations.RejectedAccessesTrap : Prop :=
  ∀ (i : Instr) (s : State) (f : Fields) (seg : SegIndex) (off : Word) (pa : PhysAddr), Good s →
    s.resolution = .memory f seg off pa →
      (i = .getMem8 ∧ s.addrValid pa .read = false ∨
        i = .getMem16 ∧ (s.addrValid pa .read = false ∨ s.addrValid (pa + 1) .read = false) ∨
        (∃ v, i = .setMem8 v) ∧ s.addrValid pa .write = false) →
      exec i s =
        .next { s with
          fault := some .memoryAccessError
          response := some (.error .memoryAccessError (some pa.toNat))
          script := s.script.tail }

/-- A word write of which the bus rejects a byte raises `MemoryAccessError` and can change no byte but its own two (20_memory.md
R49; what it leaves in them is free, the spec's decision D20 and log entry 13; which two bytes a word has,
offset 0xFFFF included, is its decision D7 and log entry 15, the model's own choice). -/
def Obligations.RejectedWordWriteChangesAtMostItsBytes : Prop :=
  ∀ (s : State) (f : Fields) (seg : SegIndex) (off : Word) (pa : PhysAddr) (v : Word), Good s →
    s.resolution = .memory f seg off pa → (s.addrValid pa .write = false ∨ s.addrValid (pa + 1) .write = false) →
      ∃ t, exec (.setMem16 v) s = .next t ∧ Raised .memoryAccessError (some pa.toNat) s t ∧
        t.resolution = s.resolution ∧ t.override = s.override ∧ t.r16 = s.r16 ∧ t.sreg = s.sreg ∧ t.cur = s.cur ∧
        ∀ a, a ≠ pa.toNat → a ≠ (pa.toNat + 1) % 1048576 → t.mem.read a = s.mem.read a

/-- A byte store changes memory at `res_phys` only (20_memory.md R48), in every state with memory in canonical form. -/
def Obligations.ByteStoreChangesOneByte : Prop :=
  ∀ (s : State) (f : Fields) (seg : SegIndex) (off : Word) (pa : PhysAddr) (v : Byte), s.mem.wf = true → Good s →
    s.resolution = .memory f seg off pa → s.addrValid pa .write = true →
      ∃ t, exec (.setMem8 v) s = .next t ∧ t.mem.read pa.toNat = v ∧
        ∀ a, a ≠ pa.toNat → t.mem.read a = s.mem.read a

/-- A word store puts the low byte at `res_phys` and the high byte at the next physical address, the top address included, and
changes no other byte (20_memory.md R45, R49; the place of the high byte, offset 0xFFFF included, is the spec's
decision D7 and log entry 15, the model's own choice). -/
def Obligations.WordStoreIsLittleEndian : Prop :=
  ∀ (s : State) (f : Fields) (seg : SegIndex) (off : Word) (pa : PhysAddr) (v : Word), s.mem.wf = true → Good s →
    s.resolution = .memory f seg off pa → s.addrValid pa .write = true → s.addrValid (pa + 1) .write = true →
      ∃ t, exec (.setMem16 v) s = .next t ∧ t.mem.read pa.toNat = v.extractLsb' 0 8 ∧
        t.mem.read ((pa.toNat + 1) % 1048576) = v.extractLsb' 8 8 ∧
        ∀ a, a ≠ pa.toNat → a ≠ (pa.toNat + 1) % 1048576 → t.mem.read a = s.mem.read a

/-- Round trip of the r/m operand, in memory at every address and in a register: what `setMem16` or `setMem8` wrote with response
`ok`, `getMem16` or `getMem8` returns, where the bus accepts the read (46_accessors.md R162, which the spec derives; that
a word at offset 0xFFFF is accessed, with its high byte at the next physical address, is its decision D7 and log entry 15, the
model's own choice). -/
def Obligations.MemAccessorsRoundTrip : Prop :=
  ∀ (s t : State), s.mem.wf = true → Good s →
    ((∀ f seg off pa, s.resolution = .memory f seg off pa →
        s.addrValid pa .read = true ∧ s.addrValid (pa + 1) .read = true) →
      ∀ v, exec (.setMem16 v) s = .next t → RespondedOk t →
        ∃ u, exec .getMem16 t = .next u ∧ u.response = some (.okWord v)) ∧
    ((∀ f seg off pa, s.resolution = .memory f seg off pa → s.addrValid pa .read = true) →
      ∀ v, exec (.setMem8 v) s = .next t → RespondedOk t →
        ∃ u, exec .getMem8 t = .next u ∧ u.response = some (.okByte v))

/-- Round trip of the other operand: `setReg8`, `setReg16` and `setSeg` are read back by `getReg8`, `getReg16` and `getSeg`
(46_accessors.md R162, which the spec derives). -/
def Obligations.RegAccessorsRoundTrip : Prop :=
  ∀ (s t : State), Good s →
    (∀ v, exec (.setReg16 v) s = .next t → RespondedOk t →
      ∃ u, exec .getReg16 t = .next u ∧ u.response = some (.okWord v)) ∧
    (∀ v, exec (.setReg8 v) s = .next t → RespondedOk t →
      ∃ u, exec .getReg8 t = .next u ∧ u.response = some (.okByte v)) ∧
    (∀ v, exec (.setSeg v) s = .next t → RespondedOk t →
      ∃ u, exec .getSeg t = .next u ∧ u.response = some (.okWord v))

/-- The 8-bit view: a write of `r8[i]` is read back, leaves every other 8-bit register and the registers SP, BP, SI, DI as they
were (10_state.md R21; the aliasing is the spec's decision D2, from general knowledge). -/
def Obligations.ByteRegistersAreHalves : Prop :=
  ∀ (s : State) (i : BitVec 3) (v : Byte),
    (∀ j : BitVec 3, (s.setReg8 i v).reg8 j = if j = i then v else s.reg8 j) ∧
    ∀ j : BitVec 3, 4 ≤ j → (s.setReg8 i v).reg16 j = s.reg16 j

/-- No accessor that responds `ok` changes block-local state or the cursor (46_accessors.md R161). -/
def Obligations.AccessorsKeepTheBlockState : Prop :=
  ∀ (i : Instr) (s t : State), isAccessor i = true → Good s → exec i s = .next t → RespondedOk t →
    t.resolution = s.resolution ∧ t.override = s.override ∧ Good t ∧ t.cur = s.cur

/-- The resolved address does not follow later register writes: after a successful write of a general or a segment register, the
r/m operand in memory is still the one at the latched address (70_reset_and_hazards.md R195, which the spec derives, with
10_state.md R14, the spec's decision D10; the place of the word's high byte, offset 0xFFFF included, is 20_memory.md R47 with its
decision D7 and log entry 15, the model's own choice). -/
def Obligations.ResolvedAddressDoesNotFollowRegisters : Prop :=
  ∀ (i : Instr) (s t : State) (f : Fields) (seg : SegIndex) (off : Word) (pa : PhysAddr), Good s →
    s.resolution = .memory f seg off pa → s.addrValid pa .read = true → s.addrValid (pa + 1) .read = true →
      (∃ v, i = .setReg16 v) ∨ (∃ v, i = .setReg8 v) ∨ (∃ v, i = .setSeg v) → exec i s = .next t → RespondedOk t →
        ∃ u, exec .getMem16 t = .next u ∧
          u.response = some (.okWord (s.mem.read ((pa.toNat + 1) % 1048576) ++ s.mem.read pa.toNat))

/-- With a register operand no accessor asks the memory bus: with other bytes and another acceptance test each does the same
(40_decode.md R93, 46_accessors.md R157 to R160). -/
def Obligations.RegisterOperandNeverInvokesTheBus : Prop :=
  ∀ (i : Instr) (s t : State) (f : Fields) (m : Memory) (rej : List (PhysAddr × AccessKind)), isAccessor i = true →
    s.resolution = .register f → exec i s = .next t →
      exec i { s with mem := m, rejects := rej } = .next { t with mem := m, rejects := rej }

/-- Every accessor before the first `decode` raises `ProtocolViolation` and touches no collaborator (46_accessors.md R150; the
spec's decision D13). -/
def Obligations.AccessorsTrapWhileUnresolved : Prop :=
  ∀ (i : Instr) (s : State), isAccessor i = true → Good s → s.resolution = .unresolved →
    ∃ t, exec i s = .next t ∧ Raised .protocolViolation none s t ∧ SameCollaborators s t

/-! ### Whole-machine rules -/

/-- While `fault` is not 0 every command but `reset` is refused with the kind in `fault`, and changes no state (60_exceptions.md
R176 (e); the spec's decision D12; that a refusal has no recorded value is the model's own choice, log entry 6). -/
def Obligations.FaultIsStickyUntilReset : Prop :=
  ∀ (i : Instr) (s : State) (k : ErrorKind), s.fault = some k → i ≠ .reset →
    exec i s = .next { s with response := some (.error k none), script := s.script.tail }

/-- `reset` completes in every state, a faulted one included, and touches no collaborator (70_reset_and_hazards.md R190, R191; the
clear latch and fault are the spec's decision D15). -/
def Obligations.ResetCompletesInEveryState : Prop :=
  ∀ s : State, exec .reset s =
    .next { s with resolution := .unresolved, override := none, fault := none, response := some .ok,
                   script := s.script.tail }

/-- Right after reset the block is unresolved with no override armed and no fault (10_state.md R29; the last two are the spec's
decision D15). -/
def Obligations.ResetStateOfTheBlock : Prop :=
  State.reset.resolution = .unresolved ∧ State.reset.override = none ∧ faultCode State.reset.fault = 0

/-- The machine never stops: every instruction answers a next state in every state, and so does every step; what the spec calls
an error is a response (60_exceptions.md R176, R179; that a word access at offset 0xFFFF runs, log entry 15, and that a step with
no request is idle, log entry 5, are the model's own choices). -/
def Obligations.EveryInstructionAnswersANextState : Prop :=
  (∀ (i : Instr) (s : State), ∃ t, exec i s = .next t) ∧ ∀ s : State, ∃ t, step s = .next t

/-- Nothing raises `InvariantViolation` (60_exceptions.md R173): no step newly records it, and no step ends in the model's stop of
that name, which is the model's own (log entry 16). -/
def Obligations.InvariantViolationIsNeverRaised : Prop :=
  (∀ s t : State, step s = .next t → t.fault = some .invariantViolation → s.fault = some .invariantViolation) ∧
  ∀ s : State, step s ≠ .fault .invariantViolation

/-- Only `decode` advances the cursor, never back, and by at most 3 (10_state.md R25, 40_decode.md R94). -/
def Obligations.OnlyDecodeMovesTheCursor : Prop :=
  ∀ (i : Instr) (s t : State), exec i s = .next t →
    (isDecode i = false → t.cur = s.cur) ∧ s.cur ≤ t.cur ∧ t.cur ≤ s.cur + 3

/-- The stream and the acceptance test are fixed for a run: no step changes them (10_state.md R24, 20_memory.md R55; that the
stream is a finite list and the test depends on nothing else are the spec's decisions D9 and D6; that both stand in the
state is the model's own choice, log entries 2 and 3). -/
def Obligations.LaunchConfigurationIsFixed : Prop :=
  ∀ s t : State, step s = .next t → t.code = s.code ∧ t.rejects = s.rejects

/-- Which commands write which collaborator: memory only `setMem8` and `setMem16`, and only with a memory operand; general registers
only the setters; segment registers only `setSeg` (10_state.md R22, R23, R26). -/
def Obligations.OnlySettersWriteCollaborators : Prop :=
  ∀ (i : Instr) (s t : State), exec i s = .next t →
    ((∀ v, i ≠ .setMem8 v) → (∀ v, i ≠ .setMem16 v) → ∀ a, t.mem.read a = s.mem.read a) ∧
    ((∀ f seg off pa, s.resolution ≠ .memory f seg off pa) → ∀ a, t.mem.read a = s.mem.read a) ∧
    ((∀ v, i ≠ .setReg8 v) → (∀ v, i ≠ .setReg16 v) → (∀ v, i ≠ .setMem8 v) → (∀ v, i ≠ .setMem16 v) →
      t.r16 = s.r16) ∧
    ((∀ v, i ≠ .setSeg v) → t.sreg = s.sreg)

/-- The invariant holds right after reset (the canonical form and the empty launch state are the model's own choices, log entries 8,
9 and 21). -/
def Obligations.InvariantHoldsAtReset : Prop := Inv State.reset

/-- Every step keeps the invariant: memory in canonical form, the cursor within the stream (10_state.md R25), and in a machine
without fault an operand that agrees with the latched `mux` and with the address formation (10_state.md R17; the canonical form is
the model's own choice, log entry 21). -/
def Obligations.StepKeepsTheInvariant : Prop := ∀ s t : State, Inv s → step s = .next t → Inv t
end

