-- ==== Sys2Proof/Laws/Decode.lean ====
section
/-! SUPPORT. The fields of a mode byte, and what the pieces of the specifier decoder do. -/

namespace Sys2Proof

/-- `mux` is bits 7 and 6 of the mode byte (30_encoding.md R61). -/
theorem muxOf_bits (b : Byte) : muxOf b = BitVec.ofBool (b.getLsbD 7) ++ BitVec.ofBool (b.getLsbD 6) := by
  revert b; decide +kernel

/-- `memIndex` is bits 2, 1 and 0 of the mode byte (30_encoding.md R61). -/
theorem memIndexOf_bits (b : Byte) :
    memIndexOf b = BitVec.ofBool (b.getLsbD 2) ++ BitVec.ofBool (b.getLsbD 1) ++ BitVec.ofBool (b.getLsbD 0) := by
  revert b; decide +kernel

@[simp] theorem modeByte_fields (b : Byte) : modeByte (muxOf b) (regIndexOf b) (memIndexOf b) = b := by
  revert b; decide +kernel

@[simp] theorem muxOf_modeByte (m : BitVec 2) (r x : BitVec 3) : muxOf (modeByte m r x) = m := by
  revert m r x; decide +kernel

@[simp] theorem regIndexOf_modeByte (m : BitVec 2) (r x : BitVec 3) : regIndexOf (modeByte m r x) = r := by
  revert m r x; decide +kernel

@[simp] theorem memIndexOf_modeByte (m : BitVec 2) (r x : BitVec 3) : memIndexOf (modeByte m r x) = x := by
  revert m r x; decide +kernel

/-- The five selecting bits of a mode byte put together from its fields. -/
theorem modeByte_bits (m : BitVec 2) (r x : BitVec 3) :
    (modeByte m r x).getLsbD 7 = m.getLsbD 1 ∧ (modeByte m r x).getLsbD 6 = m.getLsbD 0 ∧
      (modeByte m r x).getLsbD 2 = x.getLsbD 2 ∧ (modeByte m r x).getLsbD 1 = x.getLsbD 1 ∧
      (modeByte m r x).getLsbD 0 = x.getLsbD 0 := by
  revert m r x; decide +kernel

/-- Decoding a mode byte put together from its fields selects by the bits of `mux` and `memIndex`. -/
theorem decodeSpecifier_modeByte (m : BitVec 2) (r x : BitVec 3) (rest : List Byte) :
    decodeSpecifier (modeByte m r x :: rest) =
      selectForm (m.getLsbD 1) (m.getLsbD 0) (x.getLsbD 2) (x.getLsbD 1) (x.getLsbD 0) r rest := by
  obtain ⟨h7, h6, h2, h1, h0⟩ := modeByte_bits m r x
  rw [decodeSpecifier, h7, h6, h2, h1, h0, regIndexOf_modeByte]

/-- The mode byte of five known bits and its `regIndex`. -/
theorem eq_modeByte_of_bits {b : Byte} {m : BitVec 2} {x : BitVec 3} (hm : muxOf b = m) (hx : memIndexOf b = x) :
    b = modeByte m (regIndexOf b) x := by
  rw [← hm, ← hx, modeByte_fields]

/-- A word is the word its two stream bytes spell. -/
@[simp] theorem word_of_wordBytes (v : Word) : (v.extractLsb' 8 8 ++ v.extractLsb' 0 8 : BitVec (8 + 8)) = v := by
  ext i h
  rw [BitVec.getElem_append]
  simp
  grind

/-- The one byte form: what it takes, or that nothing is left. -/
theorem takeByte_cases (form : Byte → Instr) (bytes : List Byte) :
    (∃ d rest, bytes = d :: rest ∧ takeByte form bytes = .ok (form d, rest)) ∨
    (bytes = [] ∧ takeByte form bytes = .error (.truncated .m8)) := by
  cases bytes with
  | nil => exact .inr ⟨rfl, rfl⟩
  | cons d rest => exact .inl ⟨d, rest, rfl, rfl⟩

/-- The two byte form: what it takes, or that fewer than two bytes are left. -/
theorem takeWord_cases (form : Word → Instr) (bytes : List Byte) :
    (∃ lo hi rest, bytes = lo :: hi :: rest ∧ takeWord form bytes = .ok (form (hi ++ lo), rest)) ∨
    (bytes.length < 2 ∧ takeWord form bytes = .error (.truncated .m16)) := by
  match bytes with
  | [] => exact .inr ⟨by simp, rfl⟩
  | [_] => exact .inr ⟨by simp, rfl⟩
  | lo :: hi :: rest => exact .inl ⟨lo, hi, rest, rfl, rfl⟩

end Sys2Proof

namespace Sys2Proof.Machine

/-- The bytes of the stream at the cursor and behind it, one by one. -/
theorem upcoming_cons {s : State} {b : Byte} {rest : List Byte} (h : s.upcoming = b :: rest) :
    s.code[s.cur]? = some b ∧ s.code[s.cur + 1]? = rest[0]? ∧ s.code[s.cur + 1 + 1]? = rest[1]? := by
  unfold State.upcoming at h
  have h0 : (s.code.drop s.cur)[0]? = some b := by rw [h]; rfl
  have h1 : (s.code.drop s.cur)[1]? = rest[0]? := by rw [h]; rfl
  have h2 : (s.code.drop s.cur)[2]? = rest[1]? := by rw [h]; rfl
  rw [List.getElem?_drop] at h0 h1 h2
  exact ⟨h0, h1, h2⟩

/-- The form that a `decode` dispatches to is the form's own instruction (40_decode.md R83). -/
theorem runForm_eq_exec (i : Instr) (s : State) (h : i.isForm = true) : runForm i s = exec i s := by
  cases i <;> first | rfl | simp [Instr.isForm, encode] at h

end Sys2Proof.Machine
end

