-- ==== Sys2Proof/Laws/Memory.lean ====
section
/-! SUPPORT. Memory: what reads as what after a write, and that every operation keeps the canonical form. -/

namespace Sys2Proof.Machine

/-- Raising the bound of `above` is harmless for a smaller address. -/
theorem Memory.above_mono {lo hi : Nat} (h : lo ≤ hi) : ∀ {m : Memory}, Memory.above hi m = true → Memory.above lo m = true
  | [], _ => rfl
  | (_, _) :: _, hm => by simp [Memory.above] at *; omega

/-- An address below every listed one reads as the blank byte. -/
theorem Memory.read_below {a : Nat} : ∀ {m : Memory}, Memory.wf m = true → Memory.above (a + 1) m = true →
    Memory.read m a = Memory.blank
  | [], _, _ => rfl
  | (k, _) :: rest, hw, ha => by
    simp only [Memory.wf, Memory.above, Bool.and_eq_true, decide_eq_true_eq] at hw ha
    rw [Memory.read, if_neg (by omega)]
    exact Memory.read_below hw.2 (Memory.above_mono (by omega) hw.1.2)

theorem Memory.read_cons_same {a : Nat} {v : Byte} {m : Memory} (hw : Memory.wf m = true)
    (ha : Memory.above (a + 1) m = true) : Memory.read (Memory.cons a v m) a = v := by
  unfold Memory.cons
  split
  · rename_i hv
    rw [Memory.read_below hw ha, hv]
  · simp [Memory.read]

theorem Memory.read_cons_other {a x : Nat} (v : Byte) (m : Memory) (h : x ≠ a) :
    Memory.read (Memory.cons a v m) x = Memory.read m x := by
  unfold Memory.cons
  split
  · rfl
  · rw [Memory.read, if_neg (Ne.symm h)]

/-- A write leaves every other address as it was. -/
theorem Memory.read_write_other {a x : Nat} (v : Byte) (h : x ≠ a) :
    ∀ m : Memory, Memory.read (Memory.write m a v) x = Memory.read m x
  | [] => by rw [Memory.write, Memory.read_cons_other v [] h]
  | (k, b) :: rest => by
    rw [Memory.write]
    split
    · rw [Memory.read, Memory.read, Memory.read_write_other v h rest]
    · split
      · rename_i hk
        rw [Memory.read_cons_other v rest h, Memory.read, if_neg (by omega)]
      · rw [Memory.read_cons_other v _ h]

/-- A written byte is read back. -/
theorem Memory.read_write_same {a : Nat} (v : Byte) :
    ∀ {m : Memory}, Memory.wf m = true → Memory.read (Memory.write m a v) a = v
  | [], _ => Memory.read_cons_same rfl rfl
  | (k, b) :: rest, hw => by
    have hw' := hw
    simp only [Memory.wf, Bool.and_eq_true, decide_eq_true_eq] at hw
    rw [Memory.write]
    split
    · rw [Memory.read, if_neg (by omega), Memory.read_write_same v hw.2]
    · split
      · rename_i hk
        exact Memory.read_cons_same hw.2 (hk ▸ hw.1.2)
      · exact Memory.read_cons_same hw' (by simp [Memory.above]; omega)

/-- Both reads at once, for a canonical memory. -/
theorem Memory.read_write {m : Memory} (hw : Memory.wf m = true) (a x : Nat) (v : Byte) :
    Memory.read (Memory.write m a v) x = if x = a then v else Memory.read m x := by
  split
  · rename_i h
    rw [h, Memory.read_write_same v hw]
  · exact Memory.read_write_other v ‹_› m

theorem Memory.cons_wf {a : Nat} (v : Byte) {m : Memory} (h : a < 1048576) (hw : Memory.wf m = true)
    (ha : Memory.above (a + 1) m = true) : Memory.wf (Memory.cons a v m) = true := by
  unfold Memory.cons
  split
  · exact hw
  · simp_all [Memory.wf]

theorem Memory.cons_above {lo a : Nat} (v : Byte) {m : Memory} (h : lo ≤ a) (hm : Memory.above lo m = true) :
    Memory.above lo (Memory.cons a v m) = true := by
  unfold Memory.cons
  split
  · exact hm
  · simpa [Memory.above] using h

theorem Memory.write_above {lo a : Nat} (v : Byte) (h : lo ≤ a) :
    ∀ {m : Memory}, Memory.wf m = true → Memory.above lo m = true → Memory.above lo (Memory.write m a v) = true
  | [], _, _ => Memory.cons_above v h rfl
  | (k, b) :: rest, hw, hm => by
    simp only [Memory.wf, Memory.above, Bool.and_eq_true, decide_eq_true_eq] at hw hm
    rw [Memory.write]
    split
    · simpa [Memory.above] using hm
    · split
      · exact Memory.cons_above v h (Memory.above_mono (by omega) hw.1.2)
      · exact Memory.cons_above v h (by simpa [Memory.above] using hm)

/-- A write to an address of the address space keeps the canonical form. -/
theorem Memory.write_wf {a : Nat} (v : Byte) (h : a < 1048576) :
    ∀ {m : Memory}, Memory.wf m = true → Memory.wf (Memory.write m a v) = true
  | [], _ => Memory.cons_wf v h rfl rfl
  | (k, b) :: rest, hw => by
    have hw' := hw
    simp only [Memory.wf, Bool.and_eq_true, decide_eq_true_eq] at hw
    rw [Memory.write]
    split
    · simp only [Memory.wf, Bool.and_eq_true, decide_eq_true_eq]
      exact ⟨⟨hw.1.1, Memory.write_above v (by omega) hw.2 hw.1.2⟩, Memory.write_wf v h hw.2⟩
    · split
      · rename_i hk
        exact Memory.cons_wf v h hw.2 (hk ▸ hw.1.2)
      · exact Memory.cons_wf v h hw' (by simp [Memory.above]; omega)

end Sys2Proof.Machine
end

