-- ==== Sys2Proof/Laws/State.lean ====
section
/-! SUPPORT. Every field after every named update of the state: one lemma per field per update, all true by unfolding. -/

namespace Sys2Proof.Machine

variable (s : State)

@[simp] theorem setReg16_resolution (i : BitVec 3) (v : Word) : (s.setReg16 i v).resolution = s.resolution := rfl
@[simp] theorem setReg16_override (i : BitVec 3) (v : Word) : (s.setReg16 i v).override = s.override := rfl
@[simp] theorem setReg16_fault (i : BitVec 3) (v : Word) : (s.setReg16 i v).fault = s.fault := rfl
@[simp] theorem setReg16_r16 (i : BitVec 3) (v : Word) : (s.setReg16 i v).r16 = s.r16.set i.toFin v := rfl
@[simp] theorem setReg16_sreg (i : BitVec 3) (v : Word) : (s.setReg16 i v).sreg = s.sreg := rfl
@[simp] theorem setReg16_cur (i : BitVec 3) (v : Word) : (s.setReg16 i v).cur = s.cur := rfl
@[simp] theorem setReg16_mem (i : BitVec 3) (v : Word) : (s.setReg16 i v).mem = s.mem := rfl
@[simp] theorem setReg16_code (i : BitVec 3) (v : Word) : (s.setReg16 i v).code = s.code := rfl
@[simp] theorem setReg16_rejects (i : BitVec 3) (v : Word) : (s.setReg16 i v).rejects = s.rejects := rfl
@[simp] theorem setReg16_response (i : BitVec 3) (v : Word) : (s.setReg16 i v).response = s.response := rfl
@[simp] theorem setReg16_script (i : BitVec 3) (v : Word) : (s.setReg16 i v).script = s.script := rfl
@[simp] theorem setReg16_fresh (i : BitVec 3) (v : Word) : (s.setReg16 i v).fresh = s.fresh := rfl

@[simp] theorem setReg8_resolution (i : BitVec 3) (v : Byte) : (s.setReg8 i v).resolution = s.resolution := rfl
@[simp] theorem setReg8_override (i : BitVec 3) (v : Byte) : (s.setReg8 i v).override = s.override := rfl
@[simp] theorem setReg8_fault (i : BitVec 3) (v : Byte) : (s.setReg8 i v).fault = s.fault := rfl
@[simp] theorem setReg8_sreg (i : BitVec 3) (v : Byte) : (s.setReg8 i v).sreg = s.sreg := rfl
@[simp] theorem setReg8_cur (i : BitVec 3) (v : Byte) : (s.setReg8 i v).cur = s.cur := rfl
@[simp] theorem setReg8_mem (i : BitVec 3) (v : Byte) : (s.setReg8 i v).mem = s.mem := rfl
@[simp] theorem setReg8_code (i : BitVec 3) (v : Byte) : (s.setReg8 i v).code = s.code := rfl
@[simp] theorem setReg8_rejects (i : BitVec 3) (v : Byte) : (s.setReg8 i v).rejects = s.rejects := rfl
@[simp] theorem setReg8_response (i : BitVec 3) (v : Byte) : (s.setReg8 i v).response = s.response := rfl
@[simp] theorem setReg8_script (i : BitVec 3) (v : Byte) : (s.setReg8 i v).script = s.script := rfl
@[simp] theorem setReg8_fresh (i : BitVec 3) (v : Byte) : (s.setReg8 i v).fresh = s.fresh := rfl

@[simp] theorem setSeg_resolution (i : SegIndex) (v : Word) : (s.setSeg i v).resolution = s.resolution := rfl
@[simp] theorem setSeg_override (i : SegIndex) (v : Word) : (s.setSeg i v).override = s.override := rfl
@[simp] theorem setSeg_fault (i : SegIndex) (v : Word) : (s.setSeg i v).fault = s.fault := rfl
@[simp] theorem setSeg_r16 (i : SegIndex) (v : Word) : (s.setSeg i v).r16 = s.r16 := rfl
@[simp] theorem setSeg_sreg (i : SegIndex) (v : Word) : (s.setSeg i v).sreg = s.sreg.set i v := rfl
@[simp] theorem setSeg_cur (i : SegIndex) (v : Word) : (s.setSeg i v).cur = s.cur := rfl
@[simp] theorem setSeg_mem (i : SegIndex) (v : Word) : (s.setSeg i v).mem = s.mem := rfl
@[simp] theorem setSeg_code (i : SegIndex) (v : Word) : (s.setSeg i v).code = s.code := rfl
@[simp] theorem setSeg_rejects (i : SegIndex) (v : Word) : (s.setSeg i v).rejects = s.rejects := rfl
@[simp] theorem setSeg_response (i : SegIndex) (v : Word) : (s.setSeg i v).response = s.response := rfl
@[simp] theorem setSeg_script (i : SegIndex) (v : Word) : (s.setSeg i v).script = s.script := rfl
@[simp] theorem setSeg_fresh (i : SegIndex) (v : Word) : (s.setSeg i v).fresh = s.fresh := rfl

@[simp] theorem setByteAt_resolution (pa : PhysAddr) (v : Byte) : (s.setByteAt pa v).resolution = s.resolution := rfl
@[simp] theorem setByteAt_override (pa : PhysAddr) (v : Byte) : (s.setByteAt pa v).override = s.override := rfl
@[simp] theorem setByteAt_fault (pa : PhysAddr) (v : Byte) : (s.setByteAt pa v).fault = s.fault := rfl
@[simp] theorem setByteAt_r16 (pa : PhysAddr) (v : Byte) : (s.setByteAt pa v).r16 = s.r16 := rfl
@[simp] theorem setByteAt_sreg (pa : PhysAddr) (v : Byte) : (s.setByteAt pa v).sreg = s.sreg := rfl
@[simp] theorem setByteAt_cur (pa : PhysAddr) (v : Byte) : (s.setByteAt pa v).cur = s.cur := rfl
@[simp] theorem setByteAt_mem (pa : PhysAddr) (v : Byte) : (s.setByteAt pa v).mem = s.mem.write pa.toNat v := rfl
@[simp] theorem setByteAt_code (pa : PhysAddr) (v : Byte) : (s.setByteAt pa v).code = s.code := rfl
@[simp] theorem setByteAt_rejects (pa : PhysAddr) (v : Byte) : (s.setByteAt pa v).rejects = s.rejects := rfl
@[simp] theorem setByteAt_response (pa : PhysAddr) (v : Byte) : (s.setByteAt pa v).response = s.response := rfl
@[simp] theorem setByteAt_script (pa : PhysAddr) (v : Byte) : (s.setByteAt pa v).script = s.script := rfl
@[simp] theorem setByteAt_fresh (pa : PhysAddr) (v : Byte) : (s.setByteAt pa v).fresh = s.fresh := rfl

@[simp] theorem setWordAt_resolution (pa : PhysAddr) (v : Word) : (s.setWordAt pa v).resolution = s.resolution := rfl
@[simp] theorem setWordAt_override (pa : PhysAddr) (v : Word) : (s.setWordAt pa v).override = s.override := rfl
@[simp] theorem setWordAt_fault (pa : PhysAddr) (v : Word) : (s.setWordAt pa v).fault = s.fault := rfl
@[simp] theorem setWordAt_r16 (pa : PhysAddr) (v : Word) : (s.setWordAt pa v).r16 = s.r16 := rfl
@[simp] theorem setWordAt_sreg (pa : PhysAddr) (v : Word) : (s.setWordAt pa v).sreg = s.sreg := rfl
@[simp] theorem setWordAt_cur (pa : PhysAddr) (v : Word) : (s.setWordAt pa v).cur = s.cur := rfl
@[simp] theorem setWordAt_mem (pa : PhysAddr) (v : Word) : (s.setWordAt pa v).mem = (s.mem.write pa.toNat (v.extractLsb' 0 8)).write (highByteAt pa).toNat (v.extractLsb' 8 8) := rfl
@[simp] theorem setWordAt_code (pa : PhysAddr) (v : Word) : (s.setWordAt pa v).code = s.code := rfl
@[simp] theorem setWordAt_rejects (pa : PhysAddr) (v : Word) : (s.setWordAt pa v).rejects = s.rejects := rfl
@[simp] theorem setWordAt_response (pa : PhysAddr) (v : Word) : (s.setWordAt pa v).response = s.response := rfl
@[simp] theorem setWordAt_script (pa : PhysAddr) (v : Word) : (s.setWordAt pa v).script = s.script := rfl
@[simp] theorem setWordAt_fresh (pa : PhysAddr) (v : Word) : (s.setWordAt pa v).fresh = s.fresh := rfl

@[simp] theorem respond_resolution (r : Response) : (respond r s).resolution = s.resolution := rfl
@[simp] theorem respond_override (r : Response) : (respond r s).override = s.override := rfl
@[simp] theorem respond_fault (r : Response) : (respond r s).fault = s.fault := rfl
@[simp] theorem respond_r16 (r : Response) : (respond r s).r16 = s.r16 := rfl
@[simp] theorem respond_sreg (r : Response) : (respond r s).sreg = s.sreg := rfl
@[simp] theorem respond_cur (r : Response) : (respond r s).cur = s.cur := rfl
@[simp] theorem respond_mem (r : Response) : (respond r s).mem = s.mem := rfl
@[simp] theorem respond_code (r : Response) : (respond r s).code = s.code := rfl
@[simp] theorem respond_rejects (r : Response) : (respond r s).rejects = s.rejects := rfl
@[simp] theorem respond_response (r : Response) : (respond r s).response = some r := rfl
@[simp] theorem respond_script (r : Response) : (respond r s).script = s.script.tail := rfl
@[simp] theorem respond_fresh (r : Response) : (respond r s).fresh = s.fresh := rfl

@[simp] theorem refuse_resolution (k : ErrorKind) : (refuse k s).resolution = s.resolution := rfl
@[simp] theorem refuse_override (k : ErrorKind) : (refuse k s).override = s.override := rfl
@[simp] theorem refuse_fault (k : ErrorKind) : (refuse k s).fault = s.fault := rfl
@[simp] theorem refuse_r16 (k : ErrorKind) : (refuse k s).r16 = s.r16 := rfl
@[simp] theorem refuse_sreg (k : ErrorKind) : (refuse k s).sreg = s.sreg := rfl
@[simp] theorem refuse_cur (k : ErrorKind) : (refuse k s).cur = s.cur := rfl
@[simp] theorem refuse_mem (k : ErrorKind) : (refuse k s).mem = s.mem := rfl
@[simp] theorem refuse_code (k : ErrorKind) : (refuse k s).code = s.code := rfl
@[simp] theorem refuse_rejects (k : ErrorKind) : (refuse k s).rejects = s.rejects := rfl
@[simp] theorem refuse_response (k : ErrorKind) : (refuse k s).response = some (.error k none) := rfl
@[simp] theorem refuse_script (k : ErrorKind) : (refuse k s).script = s.script.tail := rfl
@[simp] theorem refuse_fresh (k : ErrorKind) : (refuse k s).fresh = s.fresh := rfl

@[simp] theorem resolveRegister_resolution (f : Fields) : (resolveRegister f s).resolution = .register f := rfl
@[simp] theorem resolveRegister_override (f : Fields) : (resolveRegister f s).override = none := rfl
@[simp] theorem resolveRegister_fault (f : Fields) : (resolveRegister f s).fault = s.fault := rfl
@[simp] theorem resolveRegister_r16 (f : Fields) : (resolveRegister f s).r16 = s.r16 := rfl
@[simp] theorem resolveRegister_sreg (f : Fields) : (resolveRegister f s).sreg = s.sreg := rfl
@[simp] theorem resolveRegister_cur (f : Fields) : (resolveRegister f s).cur = s.cur := rfl
@[simp] theorem resolveRegister_mem (f : Fields) : (resolveRegister f s).mem = s.mem := rfl
@[simp] theorem resolveRegister_code (f : Fields) : (resolveRegister f s).code = s.code := rfl
@[simp] theorem resolveRegister_rejects (f : Fields) : (resolveRegister f s).rejects = s.rejects := rfl
@[simp] theorem resolveRegister_response (f : Fields) : (resolveRegister f s).response = s.response := rfl
@[simp] theorem resolveRegister_script (f : Fields) : (resolveRegister f s).script = s.script := rfl
@[simp] theorem resolveRegister_fresh (f : Fields) : (resolveRegister f s).fresh = s.fresh := rfl

@[simp] theorem resolveMemory_resolution (f : Fields) (d : SegIndex) (off : State → Word) : (resolveMemory f d off s).resolution = .memory f (s.segmentFor d) (off s) (newAddress (s.seg (s.segmentFor d)) (off s)) := rfl
@[simp] theorem resolveMemory_override (f : Fields) (d : SegIndex) (off : State → Word) : (resolveMemory f d off s).override = none := rfl
@[simp] theorem resolveMemory_fault (f : Fields) (d : SegIndex) (off : State → Word) : (resolveMemory f d off s).fault = s.fault := rfl
@[simp] theorem resolveMemory_r16 (f : Fields) (d : SegIndex) (off : State → Word) : (resolveMemory f d off s).r16 = s.r16 := rfl
@[simp] theorem resolveMemory_sreg (f : Fields) (d : SegIndex) (off : State → Word) : (resolveMemory f d off s).sreg = s.sreg := rfl
@[simp] theorem resolveMemory_cur (f : Fields) (d : SegIndex) (off : State → Word) : (resolveMemory f d off s).cur = s.cur := rfl
@[simp] theorem resolveMemory_mem (f : Fields) (d : SegIndex) (off : State → Word) : (resolveMemory f d off s).mem = s.mem := rfl
@[simp] theorem resolveMemory_code (f : Fields) (d : SegIndex) (off : State → Word) : (resolveMemory f d off s).code = s.code := rfl
@[simp] theorem resolveMemory_rejects (f : Fields) (d : SegIndex) (off : State → Word) : (resolveMemory f d off s).rejects = s.rejects := rfl
@[simp] theorem resolveMemory_response (f : Fields) (d : SegIndex) (off : State → Word) : (resolveMemory f d off s).response = s.response := rfl
@[simp] theorem resolveMemory_script (f : Fields) (d : SegIndex) (off : State → Word) : (resolveMemory f d off s).script = s.script := rfl
@[simp] theorem resolveMemory_fresh (f : Fields) (d : SegIndex) (off : State → Word) : (resolveMemory f d off s).fresh = s.fresh := rfl

@[simp] theorem withCommand_resolution (c : BitVec 4) : (s.withCommand c).resolution = s.resolution := rfl
@[simp] theorem withCommand_override (c : BitVec 4) : (s.withCommand c).override = s.override := rfl
@[simp] theorem withCommand_fault (c : BitVec 4) : (s.withCommand c).fault = s.fault := rfl
@[simp] theorem withCommand_r16 (c : BitVec 4) : (s.withCommand c).r16 = s.r16 := rfl
@[simp] theorem withCommand_sreg (c : BitVec 4) : (s.withCommand c).sreg = s.sreg := rfl
@[simp] theorem withCommand_cur (c : BitVec 4) : (s.withCommand c).cur = s.cur := rfl
@[simp] theorem withCommand_mem (c : BitVec 4) : (s.withCommand c).mem = s.mem := rfl
@[simp] theorem withCommand_code (c : BitVec 4) : (s.withCommand c).code = s.code := rfl
@[simp] theorem withCommand_rejects (c : BitVec 4) : (s.withCommand c).rejects = s.rejects := rfl
@[simp] theorem withCommand_response (c : BitVec 4) : (s.withCommand c).response = s.response := rfl
@[simp] theorem withCommand_script (c : BitVec 4) : (s.withCommand c).script = .command c 0 :: s.script.tail := rfl
@[simp] theorem withCommand_fresh (c : BitVec 4) : (s.withCommand c).fresh = s.fresh := rfl

@[simp] theorem withStreamBytes_resolution (bs : List Byte) : (s.withStreamBytes bs).resolution = s.resolution := rfl
@[simp] theorem withStreamBytes_override (bs : List Byte) : (s.withStreamBytes bs).override = s.override := rfl
@[simp] theorem withStreamBytes_fault (bs : List Byte) : (s.withStreamBytes bs).fault = s.fault := rfl
@[simp] theorem withStreamBytes_r16 (bs : List Byte) : (s.withStreamBytes bs).r16 = s.r16 := rfl
@[simp] theorem withStreamBytes_sreg (bs : List Byte) : (s.withStreamBytes bs).sreg = s.sreg := rfl
@[simp] theorem withStreamBytes_cur (bs : List Byte) : (s.withStreamBytes bs).cur = s.cur := rfl
@[simp] theorem withStreamBytes_mem (bs : List Byte) : (s.withStreamBytes bs).mem = s.mem := rfl
@[simp] theorem withStreamBytes_rejects (bs : List Byte) : (s.withStreamBytes bs).rejects = s.rejects := rfl
@[simp] theorem withStreamBytes_response (bs : List Byte) : (s.withStreamBytes bs).response = s.response := rfl
@[simp] theorem withStreamBytes_script (bs : List Byte) : (s.withStreamBytes bs).script = s.script := rfl
@[simp] theorem withStreamBytes_fresh (bs : List Byte) : (s.withStreamBytes bs).fresh = s.fresh := rfl

@[simp] theorem takeError_r16 (k : ErrorKind) (r : Option Nat) (l : Aftermath) : (takeError k r l s).r16 = s.r16 := by
  cases l <;> rfl
@[simp] theorem takeError_sreg (k : ErrorKind) (r : Option Nat) (l : Aftermath) : (takeError k r l s).sreg = s.sreg := by
  cases l <;> rfl
@[simp] theorem takeError_cur (k : ErrorKind) (r : Option Nat) (l : Aftermath) : (takeError k r l s).cur = s.cur := by
  cases l <;> rfl
@[simp] theorem takeError_mem (k : ErrorKind) (r : Option Nat) (l : Aftermath) : (takeError k r l s).mem = s.mem := by
  cases l <;> rfl
@[simp] theorem takeError_code (k : ErrorKind) (r : Option Nat) (l : Aftermath) : (takeError k r l s).code = s.code := by
  cases l <;> rfl
@[simp] theorem takeError_rejects (k : ErrorKind) (r : Option Nat) (l : Aftermath) : (takeError k r l s).rejects = s.rejects := by
  cases l <;> rfl
@[simp] theorem takeError_fault (k : ErrorKind) (r : Option Nat) (l : Aftermath) :
    (takeError k r l s).fault = some (s.fault.getD k) := rfl
@[simp] theorem takeError_response (k : ErrorKind) (r : Option Nat) (l : Aftermath) :
    (takeError k r l s).response = some (.error k r) := rfl
@[simp] theorem takeError_script (k : ErrorKind) (r : Option Nat) (l : Aftermath) :
    (takeError k r l s).script = s.script.tail := by
  cases l <;> rfl

/-- What an error leaves of the block-local state, by its aftermath (60_exceptions.md R176 (d)). -/
@[simp] theorem takeError_unchanged_resolution (k : ErrorKind) (r : Option Nat) :
    (takeError k r .unchanged s).resolution = s.resolution := rfl
@[simp] theorem takeError_unchanged_override (k : ErrorKind) (r : Option Nat) :
    (takeError k r .unchanged s).override = s.override := rfl
@[simp] theorem takeError_unresolved_resolution (k : ErrorKind) (r : Option Nat) :
    (takeError k r .unresolved s).resolution = .unresolved := rfl
@[simp] theorem takeError_latchKept_override (k : ErrorKind) (r : Option Nat) :
    (takeError k r .latchKept s).override = s.override := rfl

/-- A move of the caller leaves the block's own state and the launch configuration as they were (70_reset_and_hazards.md R203). -/
theorem callerEffect_block (m : CallerMove) :
    (callerEffect m s).resolution = s.resolution ∧ (callerEffect m s).override = s.override ∧
      (callerEffect m s).fault = s.fault ∧ (callerEffect m s).response = s.response ∧
      (callerEffect m s).code = s.code ∧ (callerEffect m s).rejects = s.rejects ∧
      (callerEffect m s).script = s.script := by
  cases m with
  | fetchByte => unfold callerEffect nextByte; cases s.code[s.cur]? <;> simp
  | fetchWord =>
    unfold callerEffect nextWord wordFetchFailed
    cases s.code[s.cur]? <;> cases s.code[s.cur + 1]? <;> simp <;> split <;> simp
  | _ => simp [callerEffect]

end Sys2Proof.Machine
end

