-- ==== Sys2Proof/Laws/Ops.lean ====
section
/-! SUPPORT. What the shared operations do, one lemma each, for proofs to cite instead of unfolding them. -/

namespace Sys2Proof.Machine

/-! ### Registers -/

theorem reg16_setReg16 (s : State) (i j : BitVec 3) (v : Word) :
    (s.setReg16 i v).reg16 j = if j = i then v else s.reg16 j := by
  simp [State.reg16, State.setReg16, Vector.getElem_set, BitVec.toNat_inj, eq_comm]

theorem seg_setSeg (s : State) (i j : SegIndex) (v : Word) :
    (s.setSeg i v).seg j = if j = i then v else s.seg j := by
  simp [State.seg, State.setSeg, Vector.getElem_set, Fin.ext_iff, eq_comm]

/-- The low half of two bytes put together. -/
theorem lowByte_append (hi lo : Byte) : (hi ++ lo).extractLsb' 0 8 = lo := by
  ext i h
  rw [BitVec.getElem_extractLsb', BitVec.getLsbD_append]
  simp [h]

/-- The high half of two bytes put together. -/
theorem highByte_append (hi lo : Byte) : (hi ++ lo).extractLsb' 8 8 = hi := by
  ext i h
  rw [BitVec.getElem_extractLsb', BitVec.getLsbD_append]
  simp [h]

/-- Two byte registers are halves of one 16-bit register exactly when they agree or differ in the half alone. -/
theorem byteHome_eq_iff (i j : BitVec 3) : byteHome j = byteHome i ∧ isHighByte j = isHighByte i ↔ j = i := by
  revert i j; decide

/-- The 8-bit view: a byte written is read back, and no other byte register changes (10_state.md R21). -/
theorem reg8_setReg8 (s : State) (i j : BitVec 3) (v : Byte) :
    (s.setReg8 i v).reg8 j = if j = i then v else s.reg8 j := by
  have key := byteHome_eq_iff i j
  have hlo := lowByte_append
  have hhi := highByte_append
  unfold State.setReg8 State.reg8
  rw [reg16_setReg16]
  by_cases hh : byteHome j = byteHome i <;> cases hi : isHighByte i <;> cases hj : isHighByte j <;> simp_all

/-! ### Memory -/

theorem highByteAt_toNat (pa : PhysAddr) : (highByteAt pa).toNat = (pa.toNat + 1) % 1048576 := by
  simp [highByteAt, BitVec.toNat_add]

theorem highByteAt_ne (pa : PhysAddr) : (highByteAt pa).toNat ≠ pa.toNat := by
  have := pa.isLt
  rw [highByteAt_toNat]; omega

/-- A stored word reads back, in canonical memory. -/
theorem wordAt_setWordAt {s : State} (h : s.mem.wf = true) (pa : PhysAddr) (v : Word) :
    (s.setWordAt pa v).wordAt pa = v := by
  have hlo := Memory.write_wf (v.extractLsb' 0 8) pa.isLt h
  simp only [State.wordAt, State.byteAt, setWordAt_mem, Memory.read_write hlo, Memory.read_write h]
  simp only [highByteAt_ne, (highByteAt_ne pa).symm, if_true, if_false]
  exact word_of_wordBytes v

/-- A word store changes its two bytes and no other. -/
theorem read_setWordAt {s : State} (h : s.mem.wf = true) (pa : PhysAddr) (v : Word) (a : Nat) :
    (s.setWordAt pa v).mem.read a =
      if a = (highByteAt pa).toNat then v.extractLsb' 8 8
      else if a = pa.toNat then v.extractLsb' 0 8 else s.mem.read a := by
  rw [setWordAt_mem, Memory.read_write (Memory.write_wf _ pa.isLt h), Memory.read_write h]

/-- A word store keeps the canonical form. -/
theorem setWordAt_wf {s : State} (h : s.mem.wf = true) (pa : PhysAddr) (v : Word) : (s.setWordAt pa v).mem.wf = true :=
  Memory.write_wf _ (highByteAt pa).isLt (Memory.write_wf _ pa.isLt h)

/-- A byte store keeps the canonical form. -/
theorem setByteAt_wf {s : State} (h : s.mem.wf = true) (pa : PhysAddr) (v : Byte) : (s.setByteAt pa v).mem.wf = true :=
  Memory.write_wf _ pa.isLt h

/-! ### The stream -/

theorem nextByte_ok {s : State} {b : Byte} (h : s.code[s.cur]? = some b) :
    nextByte s = .ok (b, { s with cur := s.cur + 1 }) := by
  simp [nextByte, h]

theorem nextByte_exhausted {s : State} (h : s.code.length ≤ s.cur) : nextByte s = .error s := by
  simp [nextByte, h]

theorem nextWord_ok {s : State} {lo hi : Byte} (hlo : s.code[s.cur]? = some lo) (hhi : s.code[s.cur + 1]? = some hi) :
    nextWord s = .ok (hi ++ lo, { s with cur := s.cur + 2 }) := by
  simp [nextWord, hlo, hhi]

theorem nextWord_exhausted {s : State} (h : s.code.length < s.cur + 2) : nextWord s = .error (wordFetchFailed s) := by
  have : s.code[s.cur + 1]? = none := by simp; omega
  unfold nextWord; rw [this]; cases s.code[s.cur]? <;> rfl

/-- The fetches of a specifier succeed when the stream holds its bytes, and move the cursor past them (40_decode.md R94). -/
theorem fetchSpecifier_ok {f : Format} {s : State} (h : s.cur + 1 + f.dispBytes ≤ s.code.length) :
    fetchSpecifier f s = .ok { s with cur := s.cur + 1 + f.dispBytes } := by
  have get (k : Nat) (hk : k < s.code.length) : ∃ b, s.code[k]? = some b := ⟨_, List.getElem?_eq_getElem hk⟩
  obtain ⟨b, hb⟩ := get s.cur (by omega)
  unfold fetchSpecifier
  rw [nextByte_ok hb]
  cases f with
  | m0 => rfl
  | m8 =>
    obtain ⟨d, hd⟩ := get (s.cur + 1) (by simp [Format.dispBytes] at h; omega)
    simp [nextByte, hd, Except.map, Format.dispBytes]
  | m16 =>
    obtain ⟨lo, hlo⟩ := get (s.cur + 1) (by simp [Format.dispBytes] at h; omega)
    obtain ⟨hi, hhi⟩ := get (s.cur + 2) (by simp [Format.dispBytes] at h; omega)
    simp [nextWord, hlo, hhi, Except.map, Format.dispBytes]

/-- What a failed fetch changes: the cursor, by at most two and not past the end, and the counter of free values. -/
structure FetchFailed (s t : State) : Prop where
  eq : t = { s with cur := t.cur, fresh := t.fresh }
  low : s.cur ≤ t.cur
  high : t.cur ≤ s.cur + 2
  within : s.cur ≤ s.code.length → t.cur ≤ s.code.length

/-- The fetches of a specifier fail when the stream lacks bytes of it (60_exceptions.md R171). -/
theorem fetchSpecifier_error {f : Format} {s : State} (h : s.code.length < s.cur + 1 + f.dispBytes) :
    ∃ t, fetchSpecifier f s = .error t ∧ FetchFailed s t := by
  unfold fetchSpecifier
  cases hb : s.code[s.cur]? with
  | none =>
    rw [nextByte_exhausted (by simpa using hb)]
    exact ⟨s, rfl, rfl, by omega, by omega, id⟩
  | some b =>
    have hlt : s.cur < s.code.length := (List.getElem?_eq_some_iff.mp hb).1
    rw [nextByte_ok hb]
    cases f with
    | m0 => simp [Format.dispBytes] at h; omega
    | m8 =>
      simp only [nextByte_exhausted (s := { s with cur := s.cur + 1 }) (by simp [Format.dispBytes] at h ⊢; omega)]
      exact ⟨_, rfl, rfl, by simp, by simp, by simp; omega⟩
    | m16 =>
      simp only [nextWord_exhausted (s := { s with cur := s.cur + 1 }) (by simp [Format.dispBytes] at h ⊢; omega)]
      refine ⟨_, rfl, ?_⟩
      unfold wordFetchFailed
      split
      · rename_i he
        simp only at he
        exact ⟨rfl, by simp only; split <;> omega, by simp only; split <;> omega, by simp only; split <;> omega⟩
      · exact ⟨rfl, by simp, by simp, by simp; omega⟩

/-! ### The common entries -/

@[simp] theorem whenNoFault_good {body : State → Out} {s : State} (h : s.fault = none) :
    whenNoFault body s = body s := by simp [whenNoFault, h]

@[simp] theorem whenNoFault_faulted {body : State → Out} {s : State} {k : ErrorKind} (h : s.fault = some k) :
    whenNoFault body s = .next (refuse k s) := by simp [whenNoFault, h]

/-- A form whose specifier the stream holds: it resolves and responds `ok`. -/
theorem specifier_ok {f : Format} {resolve : State → State} {s : State} (h : s.fault = none)
    (hlen : s.cur + 1 + f.dispBytes ≤ s.code.length) :
    specifier f resolve s = .next (respond .ok (resolve { s with cur := s.cur + 1 + f.dispBytes })) := by
  simp [specifier, h, fetchSpecifier_ok hlen]

/-- A form whose specifier the stream does not hold: `StreamExhausted`, whatever the form. -/
theorem specifier_error {f : Format} {resolve : State → State} {s : State} (h : s.fault = none)
    (hlen : s.code.length < s.cur + 1 + f.dispBytes) :
    ∃ t, FetchFailed s t ∧ fetchSpecifier f s = .error t ∧
      specifier f resolve s = .next (takeError .streamExhausted none .unresolved t) := by
  obtain ⟨t, ht, hf⟩ := fetchSpecifier_error hlen
  exact ⟨t, hf, ht, by simp [specifier, h, ht]⟩

/-- Everything a form can do: be refused, resolve, or run out of stream. -/
theorem specifier_cases (f : Format) (resolve : State → State) (s : State) :
    (∃ k, s.fault = some k ∧ specifier f resolve s = .next (refuse k s)) ∨
    (s.fault = none ∧ s.cur + 1 + f.dispBytes ≤ s.code.length ∧
      specifier f resolve s = .next (respond .ok (resolve { s with cur := s.cur + 1 + f.dispBytes }))) ∨
    (s.fault = none ∧ s.code.length < s.cur + 1 + f.dispBytes ∧
      ∃ t, FetchFailed s t ∧ specifier f resolve s = .next (takeError .streamExhausted none .unresolved t)) := by
  rcases Option.eq_none_or_eq_some s.fault with h | ⟨k, h⟩
  · rcases Nat.lt_or_ge s.code.length (s.cur + 1 + f.dispBytes) with hl | hl
    · obtain ⟨t, ht, _, he⟩ := specifier_error (resolve := resolve) h hl
      exact .inr (.inr ⟨h, hl, t, ht, he⟩)
    · exact .inr (.inl ⟨h, hl, specifier_ok h hl⟩)
  · exact .inl ⟨k, h, by simp [specifier, h]⟩

/-- Everything an accessor's entry can do: refuse, raise `ProtocolViolation`, or go on with the register or the memory operand
(46_accessors.md R150). -/
theorem whenResolved_cases (onReg : Fields → State → State) (onMem : Fields → PhysAddr → State → State) (s : State) :
    (∃ k, s.fault = some k ∧ whenResolved onReg onMem s = .next (refuse k s)) ∨
    (s.fault = none ∧ s.resolution = .unresolved ∧
      whenResolved onReg onMem s = .next (takeError .protocolViolation none .unspecified s)) ∨
    (s.fault = none ∧ ∃ f, s.resolution = .register f ∧ whenResolved onReg onMem s = .next (onReg f s)) ∨
    (s.fault = none ∧ ∃ f seg off pa, s.resolution = .memory f seg off pa ∧
      whenResolved onReg onMem s = .next (onMem f pa s)) := by
  cases h : s.fault with
  | some k => exact .inl ⟨k, rfl, by simp [whenResolved, h]⟩
  | none =>
    cases hr : s.resolution with
    | unresolved => exact .inr (.inl ⟨rfl, rfl, by simp [whenResolved, h, hr]⟩)
    | register f => exact .inr (.inr (.inl ⟨rfl, f, rfl, by simp [whenResolved, h, hr]⟩))
    | memory f seg off pa => exact .inr (.inr (.inr ⟨rfl, f, seg, off, pa, rfl, by simp [whenResolved, h, hr]⟩))

/-- An accessor of the other operand in a machine without fault and with a resolved operand runs on the register that `regIndex`
selects (46_accessors.md R150). -/
theorem whenResolvedReg_ok {s : State} {f : Fields} (body : BitVec 3 → State → State) (hg : s.fault = none)
    (h : s.resolution = .register f ∨ ∃ seg off pa, s.resolution = .memory f seg off pa) :
    whenResolvedReg body s = .next (body f.regIndex s) := by
  unfold whenResolvedReg whenResolved
  rw [whenNoFault_good hg]
  rcases h with h | ⟨seg, off, pa, h⟩ <;> simp only [h]

/-- An accessor of the r/m operand with a register operand runs on the register that `memIndex` selects. -/
theorem whenResolvedMem_register {s : State} {f : Fields} (onReg : BitVec 3 → State → State)
    (onMem : PhysAddr → State → State) (hg : s.fault = none) (h : s.resolution = .register f) :
    whenResolvedMem onReg onMem s = .next (onReg f.memIndex s) := by
  unfold whenResolvedMem whenResolved
  rw [whenNoFault_good hg]
  simp only [h]

/-- An accessor of the r/m operand with a memory operand runs on the latched physical address. -/
theorem whenResolvedMem_memory {s : State} {f : Fields} {seg : SegIndex} {off : Word} {pa : PhysAddr}
    (onReg : BitVec 3 → State → State) (onMem : PhysAddr → State → State) (hg : s.fault = none)
    (h : s.resolution = .memory f seg off pa) : whenResolvedMem onReg onMem s = .next (onMem pa s) := by
  unfold whenResolvedMem whenResolved
  rw [whenNoFault_good hg]
  simp only [h]

/-- Which half of which register an 8-bit register is, below index 4 (10_state.md R21). -/
theorem byteHome_low {i : BitVec 3} (h : i < 4) : byteHome i = i ∧ isHighByte i = false := by revert i; decide

/-- Which half of which register an 8-bit register is, from index 4 on (10_state.md R21). -/
theorem byteHome_high {i : BitVec 3} (h : 4 ≤ i) : byteHome i = i - 4 ∧ isHighByte i = true := by revert i; decide

end Sys2Proof.Machine
end

