-- ==== Sys2Proof/Laws/Exec.lean ====
section
/-! SUPPORT. The shapes of the meanings: every form is a `specifier`, every accessor a `whenResolved`. Proofs over all forms or
all accessors take the shape from here instead of unfolding 32 or 10 meanings. -/

namespace Sys2Proof.Machine

/-- What a form resolves to: a register operand, or a memory operand. -/
inductive Resolves : (State → State) → Prop where
  | register (f : Fields) (h : f.mux = 3) : Resolves (resolveRegister f)
  | memory (f : Fields) (d : SegIndex) (off : State → Word) (h : f.mux ≠ 3) : Resolves (resolveMemory f d off)

/-- Every form fetches a specifier of its own length and resolves an operand. -/
theorem exec_form (i : Instr) (h : i.isForm = true) :
    ∃ (f : Format) (resolve : State → State), (∀ s, exec i s = specifier f resolve s) ∧
      (encodeSpecifier i).length = 1 + f.dispBytes ∧ Resolves resolve := by
  cases i
  all_goals first
    | (simp [Instr.isForm, encode] at h; done)
    | skip
  all_goals simp only [exec, execBxSi, execBxDi, execBpSi, execBpDi, execSi, execDi, execD16, execBx, execBxSiD8,
    execBxDiD8, execBpSiD8, execBpDiD8, execSiD8, execDiD8, execBpD8, execBxD8, execBxSiD16, execBxDiD16, execBpSiD16,
    execBpDiD16, execSiD16, execDiD16, execBpD16, execBxD16, execReg0, execReg1, execReg2, execReg3, execReg4,
    execReg5, execReg6, execReg7]
  all_goals first
    | exact ⟨_, _, fun _ => rfl, rfl, .register _ rfl⟩
    | exact ⟨_, _, fun _ => rfl, rfl, .memory _ _ _ (by simp)⟩

/-- Every accessor starts with the common precondition (46_accessors.md R150). -/
theorem exec_accessor (i : Instr) (h : isAccessor i = true) :
    ∃ (onReg : Fields → State → State) (onMem : Fields → PhysAddr → State → State),
      ∀ s, exec i s = whenResolved onReg onMem s := by
  cases i
  case getReg8 => exact ⟨_, _, fun _ => rfl⟩
  case getReg16 => exact ⟨_, _, fun _ => rfl⟩
  case setReg8 => exact ⟨_, _, fun _ => rfl⟩
  case setReg16 => exact ⟨_, _, fun _ => rfl⟩
  case getSeg => exact ⟨_, _, fun _ => rfl⟩
  case setSeg => exact ⟨_, _, fun _ => rfl⟩
  case getMem8 => exact ⟨_, _, fun _ => rfl⟩
  case getMem16 => exact ⟨_, _, fun _ => rfl⟩
  case setMem8 => exact ⟨_, _, fun _ => rfl⟩
  case setMem16 => exact ⟨_, _, fun _ => rfl⟩
  all_goals cases h

/-- Everything a form can do: be refused, resolve, or run out of stream. -/
theorem exec_form_cases (i : Instr) (hi : i.isForm = true) (s : State) :
    (∃ k, s.fault = some k ∧ exec i s = .next (refuse k s)) ∨
    (s.fault = none ∧ ∃ (f : Format) (resolve : State → State), s.cur + 1 + f.dispBytes ≤ s.code.length ∧
      Resolves resolve ∧ exec i s = .next (respond .ok (resolve { s with cur := s.cur + 1 + f.dispBytes }))) ∨
    (s.fault = none ∧ ∃ t, FetchFailed s t ∧ exec i s = .next (takeError .streamExhausted none .unresolved t)) := by
  obtain ⟨f, r, he, _, hr⟩ := exec_form i hi
  rw [he]
  rcases specifier_cases f r s with ⟨k, h, e⟩ | ⟨h, hl, e⟩ | ⟨h, hl, t, ht, e⟩
  · exact .inl ⟨k, h, e⟩
  · exact .inr (.inl ⟨h, f, r, hl, hr, e⟩)
  · exact .inr (.inr ⟨h, t, ht, e⟩)

/-- The kinds of instruction, for proofs over all of them. -/
theorem instr_cases (i : Instr) :
    i.isForm = true ∨ isAccessor i = true ∨ i = .decode ∨ (∃ n, i = .armOverride n) ∨ i = .clearOverride ∨
      i = .reset := by
  cases i <;> first
    | exact .inl rfl
    | exact .inr (.inl rfl)
    | exact .inr (.inr (.inl rfl))
    | exact .inr (.inr (.inr (.inl ⟨_, rfl⟩)))
    | exact .inr (.inr (.inr (.inr (.inl rfl))))
    | exact .inr (.inr (.inr (.inr (.inr rfl))))

end Sys2Proof.Machine
end

