-- ==== Sys2Proof/Laws/PerInstr.lean ====
section
/-! SUPPORT. The family `SpecifierLength`, one lemma per constructor of `Instr`: a form is one mode byte and as many bytes as
`mux` and `memIndex` of that byte say, and a command stands in no stream (spec 30_encoding.md R62 to R65). -/

namespace Sys2Proof.Laws.SpecifierLength

/-- The bytes of an instruction in the stream: for a form its mode byte, then the displacement bytes of the format that the byte
selects; none for a command. -/
def Statement (i : Instr) : Prop :=
  if i.isForm then
    ∃ (b : Byte) (disp : List Byte), encodeSpecifier i = b :: disp ∧
      disp.length = (formatOf (muxOf b) (memIndexOf b)).dispBytes
  else encodeSpecifier i = []

/-- A form with its mode byte written from its fields. -/
theorem of_modeByte {i : Instr} {m : BitVec 2} {r x : BitVec 3} {disp : List Byte} (h : i.isForm = true)
    (he : encodeSpecifier i = modeByte m r x :: disp) (hl : disp.length = (formatOf m x).dispBytes) : Statement i := by
  rw [Statement, if_pos h]
  exact ⟨_, _, he, by rw [muxOf_modeByte, memIndexOf_modeByte]; exact hl⟩

theorem bxSi (regIndex : BitVec 3) :
    Statement (.bxSi regIndex) := of_modeByte rfl rfl rfl

theorem bxDi (regIndex : BitVec 3) :
    Statement (.bxDi regIndex) := of_modeByte rfl rfl rfl

theorem bpSi (regIndex : BitVec 3) :
    Statement (.bpSi regIndex) := of_modeByte rfl rfl rfl

theorem bpDi (regIndex : BitVec 3) :
    Statement (.bpDi regIndex) := of_modeByte rfl rfl rfl

theorem si (regIndex : BitVec 3) :
    Statement (.si regIndex) := of_modeByte rfl rfl rfl

theorem di (regIndex : BitVec 3) :
    Statement (.di regIndex) := of_modeByte rfl rfl rfl

theorem d16 (regIndex : BitVec 3) (value16 : Word) :
    Statement (.d16 regIndex value16) := of_modeByte rfl rfl rfl

theorem bx (regIndex : BitVec 3) :
    Statement (.bx regIndex) := of_modeByte rfl rfl rfl

theorem bxSiD8 (regIndex : BitVec 3) (disp8 : Byte) :
    Statement (.bxSiD8 regIndex disp8) := of_modeByte rfl rfl rfl

theorem bxDiD8 (regIndex : BitVec 3) (disp8 : Byte) :
    Statement (.bxDiD8 regIndex disp8) := of_modeByte rfl rfl rfl

theorem bpSiD8 (regIndex : BitVec 3) (disp8 : Byte) :
    Statement (.bpSiD8 regIndex disp8) := of_modeByte rfl rfl rfl

theorem bpDiD8 (regIndex : BitVec 3) (disp8 : Byte) :
    Statement (.bpDiD8 regIndex disp8) := of_modeByte rfl rfl rfl

theorem siD8 (regIndex : BitVec 3) (disp8 : Byte) :
    Statement (.siD8 regIndex disp8) := of_modeByte rfl rfl rfl

theorem diD8 (regIndex : BitVec 3) (disp8 : Byte) :
    Statement (.diD8 regIndex disp8) := of_modeByte rfl rfl rfl

theorem bpD8 (regIndex : BitVec 3) (disp8 : Byte) :
    Statement (.bpD8 regIndex disp8) := of_modeByte rfl rfl rfl

theorem bxD8 (regIndex : BitVec 3) (disp8 : Byte) :
    Statement (.bxD8 regIndex disp8) := of_modeByte rfl rfl rfl

theorem bxSiD16 (regIndex : BitVec 3) (value16 : Word) :
    Statement (.bxSiD16 regIndex value16) := of_modeByte rfl rfl rfl

theorem bxDiD16 (regIndex : BitVec 3) (value16 : Word) :
    Statement (.bxDiD16 regIndex value16) := of_modeByte rfl rfl rfl

theorem bpSiD16 (regIndex : BitVec 3) (value16 : Word) :
    Statement (.bpSiD16 regIndex value16) := of_modeByte rfl rfl rfl

theorem bpDiD16 (regIndex : BitVec 3) (value16 : Word) :
    Statement (.bpDiD16 regIndex value16) := of_modeByte rfl rfl rfl

theorem siD16 (regIndex : BitVec 3) (value16 : Word) :
    Statement (.siD16 regIndex value16) := of_modeByte rfl rfl rfl

theorem diD16 (regIndex : BitVec 3) (value16 : Word) :
    Statement (.diD16 regIndex value16) := of_modeByte rfl rfl rfl

theorem bpD16 (regIndex : BitVec 3) (value16 : Word) :
    Statement (.bpD16 regIndex value16) := of_modeByte rfl rfl rfl

theorem bxD16 (regIndex : BitVec 3) (value16 : Word) :
    Statement (.bxD16 regIndex value16) := of_modeByte rfl rfl rfl

theorem reg0 (regIndex : BitVec 3) :
    Statement (.reg0 regIndex) := of_modeByte rfl rfl rfl

theorem reg1 (regIndex : BitVec 3) :
    Statement (.reg1 regIndex) := of_modeByte rfl rfl rfl

theorem reg2 (regIndex : BitVec 3) :
    Statement (.reg2 regIndex) := of_modeByte rfl rfl rfl

theorem reg3 (regIndex : BitVec 3) :
    Statement (.reg3 regIndex) := of_modeByte rfl rfl rfl

theorem reg4 (regIndex : BitVec 3) :
    Statement (.reg4 regIndex) := of_modeByte rfl rfl rfl

theorem reg5 (regIndex : BitVec 3) :
    Statement (.reg5 regIndex) := of_modeByte rfl rfl rfl

theorem reg6 (regIndex : BitVec 3) :
    Statement (.reg6 regIndex) := of_modeByte rfl rfl rfl

theorem reg7 (regIndex : BitVec 3) :
    Statement (.reg7 regIndex) := of_modeByte rfl rfl rfl

theorem decode : Statement (.decode) := rfl

theorem armOverride (s : Nat) : Statement (.armOverride s) := rfl

theorem clearOverride : Statement (.clearOverride) := rfl

theorem getReg8 : Statement (.getReg8) := rfl

theorem getReg16 : Statement (.getReg16) := rfl

theorem setReg8 (v : Byte) : Statement (.setReg8 v) := rfl

theorem setReg16 (v : Word) : Statement (.setReg16 v) := rfl

theorem getSeg : Statement (.getSeg) := rfl

theorem setSeg (v : Word) : Statement (.setSeg v) := rfl

theorem getMem8 : Statement (.getMem8) := rfl

theorem getMem16 : Statement (.getMem16) := rfl

theorem setMem8 (v : Byte) : Statement (.setMem8 v) := rfl

theorem setMem16 (v : Word) : Statement (.setMem16 v) := rfl

theorem reset : Statement (.reset) := rfl

end Sys2Proof.Laws.SpecifierLength
end

