-- ==== Sys2Proof/Laws/Run.lean ====
section
/-! SUPPORT. What every command answers, and what the verdict over a run says of its end (spec 70_reset_and_hazards.md R193). -/

namespace Sys2Proof.Machine

/-- A command was answered: its request is gone, and its response is no error exactly when no fault is held after it. -/
structure Answered (s t : State) : Prop where
  script : t.script = s.script.tail
  response : ∃ r, t.response = some r ∧ (r.isOk = true ↔ t.fault = none)

/-- A command that ends in `respond`. -/
theorem respond_answered {s x : State} {r : Response} (hs : x.script = s.script) (hr : r.isOk = true ↔ x.fault = none) :
    Answered s (respond r x) := ⟨by simp [respond, hs], r, rfl, hr⟩

/-- A command that raises an error. -/
theorem takeError_answered {s x : State} (k : ErrorKind) (r : Option Nat) (left : Aftermath) (hs : x.script = s.script) :
    Answered s (takeError k r left x) := ⟨by rw [takeError_script, hs], _, rfl, by simp [Response.isOk]⟩

/-- A refused command. -/
theorem refuse_answered {s : State} {k : ErrorKind} (h : s.fault = some k) : Answered s (refuse k s) :=
  respond_answered rfl (by simp [Response.isOk, h])

/-- Behind the common entry only the body of a machine without fault is left to look at. -/
theorem whenNoFault_answered {body : State → Out} {s t : State} (hb : s.fault = none → body s = .next t → Answered s t)
    (h : whenNoFault body s = .next t) : Answered s t := by
  cases hf : s.fault with
  | some k =>
    rw [whenNoFault_faulted hf] at h
    cases h
    exact refuse_answered hf
  | none => exact hb hf (by rwa [whenNoFault_good hf] at h)

/-- Every specifier fetched from the stream is answered, whatever it resolves to. -/
theorem specifier_answered {f : Format} {resolve : State → State} {s t : State}
    (hr : ∀ x, (resolve x).script = x.script ∧ (resolve x).fault = x.fault) (h : specifier f resolve s = .next t) :
    Answered s t := by
  rcases specifier_cases f resolve s with ⟨k, hf, e⟩ | ⟨hf, _, e⟩ | ⟨hf, _, u, hu, e⟩ <;> rw [e] at h <;> cases h
  · exact refuse_answered hf
  · exact respond_answered (hr _).1 (by simp [Response.isOk, (hr _).2, hf])
  · exact takeError_answered _ _ _ (by rw [hu.eq])

/-- Every accessor is answered, if what it does with either operand is. -/
theorem whenResolved_answered {onReg : Fields → State → State} {onMem : Fields → PhysAddr → State → State} {s t : State}
    (hreg : ∀ f, s.fault = none → Answered s (onReg f s)) (hmem : ∀ f pa, s.fault = none → Answered s (onMem f pa s))
    (h : whenResolved onReg onMem s = .next t) : Answered s t := by
  rcases whenResolved_cases onReg onMem s with
    ⟨k, hf, e⟩ | ⟨_, _, e⟩ | ⟨hf, f, _, e⟩ | ⟨hf, f, _, _, pa, _, e⟩ <;> rw [e] at h <;> cases h
  · exact refuse_answered hf
  · exact takeError_answered _ _ _ rfl
  · exact hreg f hf
  · exact hmem f pa hf

/-- An accessor of the other operand is answered, if what it does with the register is. -/
theorem whenResolvedReg_answered {body : BitVec 3 → State → State} {s t : State}
    (hb : ∀ i, s.fault = none → Answered s (body i s)) (h : whenResolvedReg body s = .next t) : Answered s t :=
  whenResolved_answered (fun f => hb f.regIndex) (fun f _ => hb f.regIndex) h

/-- An accessor of the r/m operand is answered, if what it does with a register and with memory is. -/
theorem whenResolvedMem_answered {onReg : BitVec 3 → State → State} {onMem : PhysAddr → State → State} {s t : State}
    (hreg : ∀ i, s.fault = none → Answered s (onReg i s)) (hmem : ∀ pa, s.fault = none → Answered s (onMem pa s))
    (h : whenResolvedMem onReg onMem s = .next t) : Answered s t :=
  whenResolved_answered (fun f => hreg f.memIndex) (fun _ => hmem) h

/-- A segment accessor is answered, slot or no slot. -/
theorem withSegSlot_answered {body : SegIndex → State → State} {s : State} (i : BitVec 3)
    (hb : ∀ k, Answered s (body k s)) : Answered s (withSegSlot body i s) := by
  unfold withSegSlot
  split
  · exact hb _
  · exact takeError_answered _ _ _ rfl

/-- Every form is answered. -/
theorem form_answered {i : Instr} {s t : State} (hi : i.isForm = true) (h : exec i s = .next t) : Answered s t := by
  obtain ⟨f, resolve, he, _, hr⟩ := exec_form i hi
  rw [he] at h
  exact specifier_answered (fun x => by cases hr <;> exact ⟨rfl, rfl⟩) h

/-- Every accessor is answered. -/
theorem accessor_answered {i : Instr} {s t : State} (hi : isAccessor i = true) (h : exec i s = .next t) :
    Answered s t := by
  have ok {r : Response} (hr : r.isOk = true) (x : State) (hs : x.script = s.script) (hx : x.fault = s.fault)
      (hf : s.fault = none) : Answered s (respond r x) := respond_answered hs (by simp [hr, hx, hf])
  cases i <;> cases hi
  all_goals simp only [exec, execGetReg8, execGetReg16, execSetReg8, execSetReg16, execGetSeg, execSetSeg, execGetMem8,
    execGetMem16, execSetMem8, execSetMem16] at h
  case getReg8 => exact whenResolvedReg_answered (fun _ hf => by exact ok rfl _ rfl rfl hf) h
  case getReg16 => exact whenResolvedReg_answered (fun _ hf => by exact ok rfl _ rfl rfl hf) h
  case setReg8 => exact whenResolvedReg_answered (fun _ hf => by exact ok rfl _ rfl rfl hf) h
  case setReg16 => exact whenResolvedReg_answered (fun _ hf => by exact ok rfl _ rfl rfl hf) h
  case getSeg => exact whenResolvedReg_answered (fun _ hf => by exact withSegSlot_answered _ fun _ => ok rfl _ rfl rfl hf) h
  case setSeg => exact whenResolvedReg_answered (fun _ hf => by exact withSegSlot_answered _ fun _ => ok rfl _ rfl rfl hf) h
  case getMem8 =>
    refine whenResolvedMem_answered (fun _ hf => by exact ok rfl _ rfl rfl hf) (fun pa hf => ?_) h
    cases memRead8 pa s
    · exact takeError_answered _ _ _ rfl
    · exact ok rfl _ rfl rfl hf
  case getMem16 =>
    refine whenResolvedMem_answered (fun _ hf => by exact ok rfl _ rfl rfl hf) (fun pa hf => ?_) h
    cases memRead16 pa s
    · exact takeError_answered _ _ _ rfl
    · exact ok rfl _ rfl rfl hf
  case setMem8 v =>
    refine whenResolvedMem_answered (fun _ hf => by exact ok rfl _ rfl rfl hf) (fun pa hf => ?_) h
    cases hm : s.addrValid pa .write <;> simp only [memWrite8, hm]
    · exact takeError_answered _ _ _ rfl
    · exact ok rfl _ rfl rfl hf
  case setMem16 v =>
    refine whenResolvedMem_answered (fun _ hf => by exact ok rfl _ rfl rfl hf) (fun pa hf => ?_) h
    cases hm : s.wordValid pa .write <;> simp only [memWrite16, hm]
    · exact takeError_answered _ _ _ rfl
    · exact ok rfl _ rfl rfl hf

/-- Every command is answered. -/
theorem exec_answered {i : Instr} {s t : State} (h : exec i s = .next t) : Answered s t := by
  rcases instr_cases i with hi | hi | rfl | ⟨n, rfl⟩ | rfl | rfl
  · exact form_answered hi h
  · exact accessor_answered hi h
  · simp only [exec, execDecode] at h
    refine whenNoFault_answered (fun _ h => ?_) h
    split at h
    · rename_i i _ _
      by_cases hi : i.isForm = true
      · exact form_answered hi (by rwa [runForm_eq_exec i s hi] at h)
      · cases i <;> first | exact absurd rfl hi | cases h
    · exact specifier_answered (fun _ => ⟨rfl, rfl⟩) h
    · cases h
  · simp only [exec, execArmOverride] at h
    refine whenNoFault_answered (fun hf h => ?_) h
    split at h <;> cases h
    · exact respond_answered rfl (by simp [Response.isOk, hf])
    · exact takeError_answered _ _ _ rfl
  · simp only [exec, execClearOverride] at h
    refine whenNoFault_answered (fun hf h => ?_) h
    cases h
    exact respond_answered rfl (by simp [Response.isOk, hf])
  · cases h
    exact respond_answered rfl (by simp [Response.isOk])

/-- Every command at the command port is answered, one that its code does not spell included. -/
theorem step_answered {s t : State} {code : BitVec 4} {arg : Word} {rest : List Request}
    (hs : s.script = .command code arg :: rest) (h : step s = .next t) : Answered s t := by
  simp only [step, hs] at h
  split at h
  · exact exec_answered h
  · exact whenNoFault_answered (fun _ h => by cases h; exact takeError_answered _ _ _ rfl) h

/-- A move of the caller is no longer pending after its step, and leaves the fault register. -/
theorem runCallerMove_fault (m : CallerMove) (s : State) : (runCallerMove m s).fault = s.fault := by
  cases m with
  | fetchByte => simp only [runCallerMove, callerEffect, nextByte]; cases s.code[s.cur]? <;> rfl
  | fetchWord =>
    simp only [runCallerMove, callerEffect, nextWord, wordFetchFailed]
    cases s.code[s.cur]? <;> cases s.code[s.cur + 1]? <;> first | rfl | (simp only; split <;> rfl)
  | _ => rfl

/-- After a run that is good, from a machine without fault, no fault is held, and no request is left
(70_reset_and_hazards.md R193). -/
theorem runScript_good {q : List Request} {s : State} {e : RunEnd} (hs : s.script = q) (hf : s.fault = none)
    (h : runScript q s = some e) (hg : e.isGood = true) : e.final.fault = none ∧ e.final.script = [] := by
  induction q generalizing s e with
  | nil => cases h; exact ⟨hf, hs⟩
  | cons q rest ih =>
    rw [runScript] at h
    cases ht : step s with
    | fault f => rw [ht] at h; cases h
    | refused r => rw [ht] at h; cases h
    | next t =>
      simp only [ht, Option.map_eq_some_iff] at h
      obtain ⟨e', he, rfl⟩ := h
      simp only [RunEnd.isGood, List.all_append, Bool.and_eq_true] at hg
      cases q with
      | command code arg =>
        obtain ⟨hscript, r, hr, hok⟩ := step_answered hs ht
        exact ih (e := e') (by rw [hscript, hs]; rfl) (hok.mp (by simpa [responseTo, hr] using hg.1)) he hg.2
      | caller m =>
        simp only [step, hs] at ht
        cases ht
        exact ih (e := e') (by simp [runCallerMove, hs]) (by rw [runCallerMove_fault, hf]) he hg.2

/-- The fault register is 0 at the end of a good run from a machine without fault (R193). -/
theorem GoodRun.fault_none {s : State} {e : RunEnd} (hf : s.fault = none) (h : run s = some e) (hg : GoodRun s) :
    e.final.fault = none := by
  simp only [GoodRun, h, Option.any_some] at hg
  exact (runScript_good rfl hf h hg).1

/-- A run that ends is either good or has gone wrong, and never both (R193). -/
theorem goneWrong_iff {s : State} {e : RunEnd} (h : run s = some e) : GoneWrong s ↔ ¬GoodRun s := by
  simp [GoneWrong, GoodRun, h, RunEnd.isGood, RunEnd.wentWrong]

end Sys2Proof.Machine
end

