-- ==== Sys2Proof/Tests/Slice0.lean ====
section
/-! SUPPORT. Tests: well-formedness, every constructor's decoding from a word written out from the spec's encoding, one step or
one command per instruction with the values of spec/95_test_vectors.md, and a state and operands that meet the hypotheses of each
statement. -/

namespace Sys2Proof.Tests

open Machine

/-! ### Well-formedness -/

/-- The segment index of `armOverride` must fit the 16-bit argument: 65536 does not. -/
theorem test_wf_refuses_wide_index : Instr.wf (.armOverride 65536) = false := by decide

/-- 65535 fits. It is no segment slot, but a well-formed command that raises (R141). -/
theorem test_wf_accepts_unslotted_index : Instr.wf (.armOverride 65535) = true := by decide

/-! ### Decoding: the words of 30_encoding.md R60, R67 and R72, bit by bit -/

theorem test_word_bxSi : decodeSpecifier [0b00000000] = .ok (.bxSi 0, []) := rfl
theorem test_word_bxDi : decodeSpecifier [0b00001001] = .ok (.bxDi 1, []) := rfl
theorem test_word_bpSi : decodeSpecifier [0b00010010] = .ok (.bpSi 2, []) := rfl
theorem test_word_bpDi : decodeSpecifier [0b00011011] = .ok (.bpDi 3, []) := rfl
theorem test_word_si : decodeSpecifier [0b00100100] = .ok (.si 4, []) := rfl
theorem test_word_di : decodeSpecifier [0b00101101] = .ok (.di 5, []) := rfl
theorem test_word_d16 : decodeSpecifier [0b00110110, 0x34, 0x12, 0x99] = .ok (.d16 6 0x1234, [0x99]) := rfl
theorem test_word_bx : decodeSpecifier [0b00111111, 0x99] = .ok (.bx 7, [0x99]) := rfl
theorem test_word_bxSiD8 : decodeSpecifier [0b01000000, 0xFE] = .ok (.bxSiD8 0 0xFE, []) := rfl
theorem test_word_bxDiD8 : decodeSpecifier [0b01001001, 0x05] = .ok (.bxDiD8 1 0x05, []) := rfl
theorem test_word_bpSiD8 : decodeSpecifier [0b01010010, 0x80] = .ok (.bpSiD8 2 0x80, []) := rfl
theorem test_word_bpDiD8 : decodeSpecifier [0b01011011, 0x7F] = .ok (.bpDiD8 3 0x7F, []) := rfl
theorem test_word_siD8 : decodeSpecifier [0b01100100, 0x05] = .ok (.siD8 4 0x05, []) := rfl
theorem test_word_diD8 : decodeSpecifier [0b01101101, 0x05] = .ok (.diD8 5 0x05, []) := rfl
theorem test_word_bpD8 : decodeSpecifier [0b01000110, 0x05] = .ok (.bpD8 0 0x05, []) := rfl
theorem test_word_bxD8 : decodeSpecifier [0b01111111, 0x05, 0x99] = .ok (.bxD8 7 0x05, [0x99]) := rfl
theorem test_word_bxSiD16 : decodeSpecifier [0b10000000, 0x34, 0x12] = .ok (.bxSiD16 0 0x1234, []) := rfl
theorem test_word_bxDiD16 : decodeSpecifier [0b10001001, 0x00, 0xF0] = .ok (.bxDiD16 1 0xF000, []) := rfl
theorem test_word_bpSiD16 : decodeSpecifier [0b10010010, 0x34, 0x12] = .ok (.bpSiD16 2 0x1234, []) := rfl
theorem test_word_bpDiD16 : decodeSpecifier [0b10011011, 0x34, 0x12] = .ok (.bpDiD16 3 0x1234, []) := rfl
theorem test_word_siD16 : decodeSpecifier [0b10100100, 0xCC, 0xED] = .ok (.siD16 4 0xEDCC, []) := rfl
theorem test_word_diD16 : decodeSpecifier [0b10101101, 0x34, 0x12] = .ok (.diD16 5 0x1234, []) := rfl
theorem test_word_bpD16 : decodeSpecifier [0b10110110, 0x34, 0x12] = .ok (.bpD16 6 0x1234, []) := rfl
theorem test_word_bxD16 : decodeSpecifier [0b10111111, 0x01, 0x00] = .ok (.bxD16 7 0x0001, []) := rfl
theorem test_word_reg0 : decodeSpecifier [0b11000000] = .ok (.reg0 0, []) := rfl
theorem test_word_reg1 : decodeSpecifier [0b11011001] = .ok (.reg1 3, []) := rfl
theorem test_word_reg2 : decodeSpecifier [0b11001010] = .ok (.reg2 1, []) := rfl
theorem test_word_reg3 : decodeSpecifier [0b11000011] = .ok (.reg3 0, []) := rfl
theorem test_word_reg4 : decodeSpecifier [0b11100100] = .ok (.reg4 4, []) := rfl
theorem test_word_reg5 : decodeSpecifier [0b11000101] = .ok (.reg5 0, []) := rfl
theorem test_word_reg6 : decodeSpecifier [0b11101110] = .ok (.reg6 5, []) := rfl
theorem test_word_reg7 : decodeSpecifier [0b11111111] = .ok (.reg7 7, []) := rfl

theorem test_code_decode : decodeCommand 0b0000 0 = .ok .decode := rfl
theorem test_code_armOverride : decodeCommand 0b0001 2 = .ok (.armOverride 2) := rfl
theorem test_code_clearOverride : decodeCommand 0b0010 0 = .ok .clearOverride := rfl
theorem test_code_getReg8 : decodeCommand 0b0011 0 = .ok .getReg8 := rfl
theorem test_code_getReg16 : decodeCommand 0b0100 0 = .ok .getReg16 := rfl
theorem test_code_setReg8 : decodeCommand 0b0101 0x00EE = .ok (.setReg8 0xEE) := rfl
theorem test_code_setReg16 : decodeCommand 0b0110 0xBEEF = .ok (.setReg16 0xBEEF) := rfl
theorem test_code_getSeg : decodeCommand 0b0111 0 = .ok .getSeg := rfl
theorem test_code_setSeg : decodeCommand 0b1000 0x7000 = .ok (.setSeg 0x7000) := rfl
theorem test_code_getMem8 : decodeCommand 0b1001 0 = .ok .getMem8 := rfl
theorem test_code_getMem16 : decodeCommand 0b1010 0 = .ok .getMem16 := rfl
theorem test_code_setMem8 : decodeCommand 0b1011 0x0099 = .ok (.setMem8 0x99) := rfl
theorem test_code_setMem16 : decodeCommand 0b1100 0xBEEF = .ok (.setMem16 0xBEEF) := rfl
theorem test_code_reset : decodeCommand 0b1101 0 = .ok .reset := rfl

/-- The codes 0xE and 0xF are rejected by name (R72). -/
theorem test_code_unassigned :
    decodeCommand 0b1110 0 = .error (.unassignedCode 14) ∧ decodeCommand 0b1111 7 = .error (.unassignedCode 15) :=
  ⟨rfl, rfl⟩

/-- Bytes that end inside a specifier are rejected by the format they end in (R62 to R64). -/
theorem test_truncated :
    decodeSpecifier [] = .error (.truncated .m0) ∧ decodeSpecifier [0x46] = .error (.truncated .m8) ∧
      decodeSpecifier [0x86, 0x34] = .error (.truncated .m16) := ⟨rfl, rfl, rfl⟩

/-- A table word of one byte that is an assigned command code is the command, any other a specifier (log entry 17). -/
theorem test_table_words :
    decodeTableWord 4 0xD = some .reset ∧ decodeTableWord 8 0x5 = some (.setReg8 0) ∧
      decodeTableWord 8 0x46 = some (.bpD8 0 0) ∧ decodeTableWord 24 0x06 = some (.d16 0 0) ∧
      decodeTableWord 24 0x123480 = some (.bxSiD16 0 0x1234) ∧ decodeTableWord 4 0xE = none := by and_intros <;> rfl

/-! ### Small states -/

/-- The start state S0 of 95_test_vectors.md with these bytes in the stream. -/
def s0 (bytes : List Byte) : State :=
  { State.reset with
    r16 := #v[0x1234, 0x5678, 0x9ABC, 0x2000, 0xFFFE, 0x3000, 0x0100, 0x0200]
    sreg := #v[0x4000, 0x1000, 0x5000, 0x6000]
    code := bytes }

/-- S0 with an operand already resolved, and the memory bytes of V-AC. -/
def withOperand (r : Resolution) : State :=
  { s0 [] with resolution := r, mem := [(0x52FFE, 0x78), (0x52FFF, 0x56), (0x62000, 0xCD), (0x62001, 0xAB)] }

/-- The operand `[BX]` of S0 with this `regIndex`: `Memory(3 DS, 0x2000)`, physical address 0x62000. -/
def bxOperand (r : BitVec 3) : State := withOperand (.memory ⟨0, r, 7⟩ 3 0x2000 0x62000)

/-- The operand `Register(x)` with this `regIndex`. -/
def regOperand (r x : BitVec 3) : State := withOperand (.register ⟨3, r, x⟩)

/-- A memory operand at this physical address. -/
def memOperand (pa : PhysAddr) : State := withOperand (.memory ⟨0, 0, 7⟩ 3 0 pa)

/-- The state with this request at the command port. -/
def State.asking (s : State) (code : BitVec 4) (arg : Word) : State := { s with script := [.command code arg] }

/-- A part of the next state, where there is one. -/
def part {α : Type} (f : State → α) (o : Out) : Option α :=
  match o with
  | .next t => some (f t)
  | .fault _ => none
  | .refused _ => none

/-- What one `decode` step from S0 resolves in a stream: operand and cursor. -/
def resolved (bytes : List Byte) : Option (Resolution × Nat) :=
  part (fun t => (t.resolution, t.cur)) (step (State.asking (s0 bytes) 0 0))

/-! ### The forms (95_test_vectors.md V-M0 to V-M3) -/

theorem test_bxSi : resolved [0x00] = some (.memory ⟨0, 0, 0⟩ 3 0x2100 0x62100, 1) := rfl
theorem test_bxDi : resolved [0x01] = some (.memory ⟨0, 0, 1⟩ 3 0x2200 0x62200, 1) := rfl
theorem test_bpSi : resolved [0x02] = some (.memory ⟨0, 0, 2⟩ 2 0x3100 0x53100, 1) := rfl
theorem test_bpDi : resolved [0x03] = some (.memory ⟨0, 0, 3⟩ 2 0x3200 0x53200, 1) := rfl
theorem test_si : resolved [0x04] = some (.memory ⟨0, 0, 4⟩ 3 0x0100 0x60100, 1) := rfl
theorem test_di : resolved [0x05] = some (.memory ⟨0, 0, 5⟩ 3 0x0200 0x60200, 1) := rfl
theorem test_d16 : resolved [0x06, 0x34, 0x12] = some (.memory ⟨0, 0, 6⟩ 3 0x1234 0x61234, 3) := rfl
theorem test_bx : resolved [0x07] = some (.memory ⟨0, 0, 7⟩ 3 0x2000 0x62000, 1) := rfl
theorem test_bxSiD8 : resolved [0x40, 0xFE] = some (.memory ⟨1, 0, 0⟩ 3 0x20FE 0x620FE, 2) := rfl
theorem test_bxDiD8 : resolved [0x41, 0xFE] = some (.memory ⟨1, 0, 1⟩ 3 0x21FE 0x621FE, 2) := rfl
theorem test_bpSiD8 : resolved [0x42, 0xFE] = some (.memory ⟨1, 0, 2⟩ 2 0x30FE 0x530FE, 2) := rfl
theorem test_bpDiD8 : resolved [0x43, 0xFE] = some (.memory ⟨1, 0, 3⟩ 2 0x31FE 0x531FE, 2) := rfl
theorem test_siD8 : resolved [0x44, 0xFE] = some (.memory ⟨1, 0, 4⟩ 3 0x00FE 0x600FE, 2) := rfl
theorem test_diD8 : resolved [0x45, 0xFE] = some (.memory ⟨1, 0, 5⟩ 3 0x01FE 0x601FE, 2) := rfl
theorem test_bpD8 : resolved [0x46, 0xFE] = some (.memory ⟨1, 0, 6⟩ 2 0x2FFE 0x52FFE, 2) := rfl
theorem test_bxD8 : resolved [0x47, 0xFE] = some (.memory ⟨1, 0, 7⟩ 3 0x1FFE 0x61FFE, 2) := rfl
theorem test_bxSiD16 : resolved [0x80, 0x00, 0xF0] = some (.memory ⟨2, 0, 0⟩ 3 0x1100 0x61100, 3) := rfl
theorem test_bxDiD16 : resolved [0x81, 0x00, 0xF0] = some (.memory ⟨2, 0, 1⟩ 3 0x1200 0x61200, 3) := rfl
theorem test_bpSiD16 : resolved [0x82, 0x00, 0xF0] = some (.memory ⟨2, 0, 2⟩ 2 0x2100 0x52100, 3) := rfl
theorem test_bpDiD16 : resolved [0x83, 0x00, 0xF0] = some (.memory ⟨2, 0, 3⟩ 2 0x2200 0x52200, 3) := rfl
theorem test_siD16 : resolved [0x84, 0x00, 0xF0] = some (.memory ⟨2, 0, 4⟩ 3 0xF100 0x6F100, 3) := rfl
theorem test_diD16 : resolved [0x85, 0x00, 0xF0] = some (.memory ⟨2, 0, 5⟩ 3 0xF200 0x6F200, 3) := rfl
theorem test_bpD16 : resolved [0x86, 0x00, 0xF0] = some (.memory ⟨2, 0, 6⟩ 2 0x2000 0x52000, 3) := rfl
theorem test_bxD16 : resolved [0x87, 0x00, 0xF0] = some (.memory ⟨2, 0, 7⟩ 3 0x1000 0x61000, 3) := rfl
theorem test_reg0 : resolved [0xC0] = some (.register ⟨3, 0, 0⟩, 1) := rfl
theorem test_reg1 : resolved [0xC1] = some (.register ⟨3, 0, 1⟩, 1) := rfl
theorem test_reg2 : resolved [0xC2] = some (.register ⟨3, 0, 2⟩, 1) := rfl
theorem test_reg3 : resolved [0xC3] = some (.register ⟨3, 0, 3⟩, 1) := rfl
theorem test_reg4 : resolved [0xC4] = some (.register ⟨3, 0, 4⟩, 1) := rfl
theorem test_reg5 : resolved [0xC5] = some (.register ⟨3, 0, 5⟩, 1) := rfl
theorem test_reg6 : resolved [0xC6] = some (.register ⟨3, 0, 6⟩, 1) := rfl
theorem test_reg7 : resolved [0xC7] = some (.register ⟨3, 0, 7⟩, 1) := rfl

/-- X3, the document's scenario: BP = 0x0010, stream `46 05`, stack-segment offset 0x0015, two bytes consumed. -/
theorem test_scenario :
    part (fun t => (t.resolution, t.cur)) (step (State.asking ((s0 [0x46, 0x05]).setReg16 5 0x0010) 0 0)) =
      some (.memory ⟨1, 0, 6⟩ 2 0x0015 0x50015, 2) := rfl

/-- X1: the base sum 0xFFFF + 0x0002 wraps to 0x0001. -/
theorem test_base_sum_wraps :
    part (·.resolution) (step (State.asking (((s0 [0x00]).setReg16 3 0xFFFF).setReg16 6 0x0002) 0 0)) =
      some (.memory ⟨0, 0, 0⟩ 3 0x0001 0x60001) := rfl

/-- V-EA: the physical address wraps at 2^20. -/
theorem test_physical_address_wraps :
    part (·.resolution) (step (State.asking ((s0 [0x06, 0x10, 0x00]).setSeg 3 0xFFFF) 0 0)) =
      some (.memory ⟨0, 0, 6⟩ 3 0x0010 0x00000) := rfl

/-- V-SE: the stream ends behind the mode byte `86`: one byte consumed, error 1. -/
theorem test_decode_truncated :
    part (fun t => (t.response, faultCode t.fault, t.cur)) (step (State.asking (s0 [0x86]) 0 0)) =
      some (some (.error .streamExhausted none), 1, 1) := rfl

/-- V-SE: an empty stream, the cursor stays 0. -/
theorem test_decode_empty :
    part (fun t => (t.response, t.cur)) (step (State.asking (s0 []) 0 0)) =
      some (some (.error .streamExhausted none), 0) := rfl

/-- V-OV: `armOverride(0)`, then `[BX]` resolves in ES, and the latch is clear. -/
theorem test_decode_uses_override :
    part (fun t => (t.resolution, t.override)) (exec .decode { s0 [0x07] with override := some 0 }) =
      some (.memory ⟨0, 0, 7⟩ 0 0x2000 0x42000, none) := rfl

/-- V-OV: a register-direct `decode` discards the override. -/
theorem test_decode_discards_override :
    part (fun t => (t.resolution, t.override)) (exec .decode { s0 [0xC0, 0x07] with override := some 0 }) =
      some (.register ⟨3, 0, 0⟩, none) := rfl

/-! ### The override commands (V-OV) -/

/-- Re-arming replaces the pending index. -/
theorem test_armOverride :
    part (·.override) (step (State.asking { s0 [] with override := some 0 } 1 2)) = some (some 2) := rfl

/-- Index 4 is no segment slot: error 4 with the index. -/
theorem test_armOverride_refused :
    part (fun t => (t.response, faultCode t.fault)) (step (State.asking (s0 [0x07]) 1 4)) =
      some (some (.error .registerIndexError (some 4)), 4) := rfl

theorem test_clearOverride :
    part (fun t => (t.override, t.response)) (step (State.asking { s0 [] with override := some 0 } 2 0)) =
      some (none, some .ok) := rfl

/-! ### The accessors (V-AC) -/

/-- `2F`: `regIndex` 5 as a byte register is CH. -/
theorem test_getReg8 : part (·.response) (step (State.asking (bxOperand 5) 3 0)) = some (some (.okByte 0x56)) := rfl

/-- `EF`: `regIndex` 5 as a word register is BP. -/
theorem test_getReg16 : part (·.response) (step (State.asking (regOperand 5 7) 4 0)) = some (some (.okWord 0x3000)) := rfl

/-- `07`: AL. -/
theorem test_setReg8_low : part (·.reg16 0) (exec (.setReg8 0xEE) (bxOperand 0)) = some 0x12EE := rfl

/-- `27`: AH. -/
theorem test_setReg8_high : part (·.reg16 0) (exec (.setReg8 0xEE) (bxOperand 4)) = some 0xEE34 := rfl

/-- `1F`: BX changes, the resolved address does not. -/
theorem test_setReg16 :
    part (fun t => (t.reg16 3, t.resolution)) (exec (.setReg16 0xBEEF) (bxOperand 3)) =
      some (0xBEEF, .memory ⟨0, 3, 7⟩ 3 0x2000 0x62000) := rfl

/-- `1F`: `regIndex` 3 as a segment index is DS. -/
theorem test_getSeg : part (·.response) (exec .getSeg (bxOperand 3)) = some (some (.okWord 0x6000)) := rfl

/-- `27`: `regIndex` 4 is no segment slot. -/
theorem test_getSeg_refused :
    part (·.response) (exec .getSeg (bxOperand 4)) = some (some (.error .registerIndexError (some 4))) := rfl

/-- `D0`: SS. -/
theorem test_setSeg : part (·.seg 2) (exec (.setSeg 0x7000) (regOperand 2 0)) = some 0x7000 := rfl

/-- `2F`: `regIndex` 5 is no segment slot. -/
theorem test_setSeg_refused :
    part (fun t => (t.response, t.sreg)) (exec (.setSeg 0x7000) (bxOperand 5)) =
      some (some (.error .registerIndexError (some 5)), (s0 []).sreg) := rfl

theorem test_getMem8_memory : part (·.response) (exec .getMem8 (bxOperand 0)) = some (some (.okByte 0xCD)) := rfl

/-- `C5`: CH. -/
theorem test_getMem8_register : part (·.response) (exec .getMem8 (regOperand 0 5)) = some (some (.okByte 0x56)) := rfl

theorem test_getMem16_memory : part (·.response) (exec .getMem16 (bxOperand 0)) = some (some (.okWord 0xABCD)) := rfl

/-- V-MA: the bus rejects 0x62001, the high byte of the word at 0x62000. -/
theorem test_getMem16_rejected :
    part (fun t => (t.response, faultCode t.fault))
        (exec .getMem16 { bxOperand 0 with rejects := [(0x62001, .read)] }) =
      some (some (.error .memoryAccessError (some 0x62000)), 2) := rfl

theorem test_setMem8_memory :
    part (fun t => (t.mem.read 0x62000, t.mem.read 0x62001)) (exec (.setMem8 0x99) (bxOperand 0)) =
      some (0x99, 0xAB) := rfl

/-- `C4`: AH. -/
theorem test_setMem8_register : part (·.reg16 0) (exec (.setMem8 0x99) (regOperand 0 4)) = some 0x9934 := rfl

/-- V-RT: the word at the top of memory wraps to address 0. -/
theorem test_setMem16_top :
    part (fun t => (t.mem.read 0xFFFFF, t.mem.read 0)) (exec (.setMem16 0xBEEF) (memOperand 0xFFFFF)) =
      some (0xEF, 0xBE) := rfl

/-- `C4`: SP. -/
theorem test_setMem16_register : part (·.reg16 4) (exec (.setMem16 0xBEEF) (regOperand 0 4)) = some 0xBEEF := rfl

/-! ### Refusal and reset (V-PV) -/

/-- An accessor before the first `decode`. -/
theorem test_unresolved :
    part (fun t => (t.response, faultCode t.fault)) (step (State.asking (s0 [0x07]) 10 0)) =
      some (some (.error .protocolViolation none), 5) := rfl

/-- Once faulted even `decode` is refused, and the cursor stays. -/
theorem test_refused :
    part (fun t => (t.response, t.cur)) (step (State.asking { s0 [0x07] with fault := some .protocolViolation } 0 0)) =
      some (some (.error .protocolViolation none), 0) := rfl

theorem test_reset :
    part (fun t => (t.resolution, t.override, t.fault, t.response))
        (step (State.asking { bxOperand 0 with override := some 1, fault := some .streamExhausted } 13 0)) =
      some (.unresolved, none, none, some .ok) := rfl

/-- An unassigned command code (R72). -/
theorem test_unassigned_code :
    part (·.response) (step (State.asking (s0 []) 14 0)) = some (some (.error .protocolViolation none)) := rfl

/-- The status read while faulted shows the fault code alone (10_state.md R18). -/
theorem test_observe :
    observe { bxOperand 0 with fault := some .memoryAccessError } = ⟨2, none, none⟩ ∧
      observe (s0 []) = ⟨0, some .unresolved, some none⟩ := by and_intros <;> rfl

/-- The next step after `withFetchWord` runs the word: the form `[BP+d8]` with displacement 0, and the command `reset`. -/
theorem test_withFetchWord :
    part (·.resolution) (step (State.reset.withFetchWord 8 0x46)) = some (.memory ⟨1, 0, 6⟩ 2 0 0) ∧
      part (·.response) (step (State.reset.withFetchWord 8 0xD)) = some (some .ok) := by and_intros <;> rfl

/-! ### Runs (70_reset_and_hazards.md R193) -/

/-- V-PV, a row's commands: arming and clearing are accepted while unresolved; the run is good. -/
theorem test_run_good :
    GoodRun { s0 [0x07] with script := [.command 1 2, .command 2 0] } ∧
      ¬GoneWrong { s0 [0x07] with script := [.command 1 2, .command 2 0] } := by and_intros <;> decide +kernel

/-- V-PV, a row's first two commands: `getSeg` raises, and although the `reset` behind it clears the fault, the run has gone
wrong. -/
theorem test_run_wrong_despite_reset :
    GoneWrong { s0 [0x07] with script := [.command 7 0, .command 13 0] } ∧
      ¬GoodRun { s0 [0x07] with script := [.command 7 0, .command 13 0] } ∧
      ((run { s0 [0x07] with script := [.command 7 0, .command 13 0] }).map fun e => faultCode e.final.fault) =
        some 0 := by and_intros <;> decide +kernel

/-! ### Witnesses: a state and operands that meet the hypotheses of each statement -/

theorem test_witness_StepServesTheCommandAtThePort :
    ∃ (s : State) (rest : List Request), s.script = .command 5 0x12EE :: rest ∧
      decodeCommand 5 0x12EE = .ok (.setReg8 0xEE) :=
  ⟨State.asking (s0 []) 5 0x12EE, [], rfl, rfl⟩

theorem test_witness_StepRunsTheSpecifierAtTheCursor :
    ∃ (s : State) (rest : List Request), s.script = .command 0 7 :: rest ∧
      decodeSpecifier s.upcoming = .ok (.bpD8 0 0x05, [0x99]) :=
  ⟨State.asking { s0 [0x07, 0x46, 0x05, 0x99] with cur := 1 } 0 7, [], rfl, rfl⟩

theorem test_witness_UnassignedCodesRaiseProtocolViolation :
    (State.asking (s0 []) 14 3).script = [.command 14 3] ∧ (State.asking (s0 []) 15 3).script = [.command 15 3] ∧
      Good (State.asking (s0 []) 14 3) ∧ Good (State.asking (s0 []) 15 3) := ⟨rfl, rfl, rfl, rfl⟩

theorem test_witness_IdleStepHoldsTheState : State.reset.script = [] := rfl

/-- One state per clause; the fetches end exactly at the end of the stream. -/
theorem test_witness_CallerMovesChangeOnlyTheirTarget :
    ({ s0 [] with script := [.caller (.writeReg16 7 1)] } : State).script = .caller (.writeReg16 7 1) :: [] ∧
    ({ s0 [] with script := [.caller (.writeReg8 4 1)] } : State).script = .caller (.writeReg8 4 1) :: [] ∧
    ({ s0 [] with script := [.caller (.writeSeg 3 1)] } : State).script = .caller (.writeSeg 3 1) :: [] ∧
    ({ s0 [] with script := [.caller (.writeByte 0xFFFFF 1)] } : State).script = .caller (.writeByte 0xFFFFF 1) :: [] ∧
    (∃ s : State, s.script = .caller .fetchByte :: [] ∧ s.cur + 1 = s.code.length) ∧
    ∃ s : State, s.script = .caller .fetchWord :: [] ∧ s.cur + 2 = s.code.length :=
  ⟨rfl, rfl, rfl, rfl, ⟨{ s0 [0x90] with script := [.caller .fetchByte] }, rfl, rfl⟩,
    ⟨{ s0 [0x90, 0x34, 0x12] with cur := 1, script := [.caller .fetchWord] }, rfl, rfl⟩⟩

theorem test_witness_SpecifierRoundTrip : Instr.isForm (.bpD16 7 0xFFFF) = true ∧ Instr.isForm (.reg7 0) = true :=
  ⟨rfl, rfl⟩

theorem test_witness_CommandRoundTrip :
    Instr.isForm (.armOverride 65535) = false ∧ Instr.wf (.armOverride 65535) = true := by decide

theorem test_witness_DecodedSpecifierIsItsEncoding :
    decodeSpecifier [0xBF, 0xFF, 0x80, 0x01] = .ok (.bxD16 7 0x80FF, [0x01]) := rfl

theorem test_witness_LengthIsAFunctionOfTheModeByte : Instr.isForm (.d16 7 0) = true := rfl

theorem test_witness_MuxZeroBaseFormsResolve : ∃ s : State, Good s ∧ s.cur + 1 = s.code.length :=
  ⟨s0 [0x00], rfl, rfl⟩

theorem test_witness_DirectAddressFormResolves : ∃ s : State, Good s ∧ s.cur + 3 = s.code.length :=
  ⟨s0 [0x06, 0x34, 0x12], rfl, rfl⟩

theorem test_witness_MuxOneFormsResolve : ∃ s : State, Good s ∧ s.cur + 2 = s.code.length :=
  ⟨{ s0 [0x00, 0x46, 0x80] with cur := 1 }, rfl, rfl⟩

theorem test_witness_MuxTwoFormsResolve : ∃ s : State, Good s ∧ s.cur + 3 = s.code.length :=
  ⟨s0 [0x86, 0xFF, 0xFF], rfl, rfl⟩

theorem test_witness_MuxThreeFormsResolve : ∃ s : State, Good s ∧ s.cur + 1 = s.code.length :=
  ⟨{ s0 [0xC0] with override := some 0 }, rfl, rfl⟩

/-- One byte too few, for each format. -/
theorem test_witness_FormsTrapAtTheEndOfTheStream :
    (s0 []).code.length < (s0 []).cur + (encodeSpecifier (.bxSi 0)).length ∧
      (s0 [0x46]).code.length < (s0 [0x46]).cur + (encodeSpecifier (.bpD8 0 5)).length ∧
      (s0 [0x86, 0x34]).code.length < (s0 [0x86, 0x34]).cur + (encodeSpecifier (.bpD16 0 0x1234)).length ∧
      Good (s0 [0x86, 0x34]) := by decide

/-- A register form, a memory form without and one with displacement, each ending exactly at the end of the stream. -/
theorem test_witness_DecodeCompletes :
    ((s0 [0xC7]).code[(s0 [0xC7]).cur]? = some 0xC7 ∧
        (s0 [0xC7]).cur + 1 + (formatOf (muxOf 0xC7) (memIndexOf 0xC7)).dispBytes = (s0 [0xC7]).code.length) ∧
      ((s0 [0x06, 1, 2]).code[(s0 [0x06, 1, 2]).cur]? = some 0x06 ∧
        (s0 [0x06, 1, 2]).cur + 1 + (formatOf (muxOf 0x06) (memIndexOf 0x06)).dispBytes = (s0 [0x06, 1, 2]).code.length) ∧
      muxOf 0xC7 = 3 ∧ muxOf 0x06 ≠ 3 ∧ Good (s0 [0xC7]) ∧ Good (s0 [0x06, 1, 2]) := by decide

/-- A successful `decode` of a memory form: the hypotheses of `EffectiveAddressIsModular`, `SegmentSelection`,
`PhysicalAddressIsFormedAtDecode` and `OverrideIsUsedOnceAndCleared`. -/
theorem test_witness_memory_decode :
    ∃ (t : State), Good (s0 [0x46, 0x80]) ∧ exec .decode (s0 [0x46, 0x80]) = .next t ∧ RespondedOk t ∧
      t.resolution = .memory ⟨1, 0, 6⟩ 2 0x2F80 0x52F80 :=
  ⟨_, rfl, rfl, rfl, rfl⟩

/-- The clauses of `SegmentSelection`: an override; the stack segment for `memIndex` 6 with `mux` 1; the data segment for
`memIndex` 6 with `mux` 0. -/
theorem test_witness_SegmentSelection :
    (∃ t, exec .decode { s0 [0x46, 0x05] with override := some 1 } = .next t ∧ RespondedOk t ∧
        t.resolution = .memory ⟨1, 0, 6⟩ 1 0x3005 0x13005) ∧
      (∃ t, exec .decode (s0 [0x46, 0x05]) = .next t ∧ RespondedOk t ∧
        t.resolution = .memory ⟨1, 0, 6⟩ 2 0x3005 0x53005) ∧
      ∃ t, exec .decode (s0 [0x06, 0x05, 0x00]) = .next t ∧ RespondedOk t ∧
        t.resolution = .memory ⟨0, 0, 6⟩ 3 0x0005 0x60005 :=
  ⟨⟨_, rfl, rfl, rfl⟩, ⟨_, rfl, rfl, rfl⟩, ⟨_, rfl, rfl, rfl⟩⟩

theorem test_witness_DecodeDoesNotReadMemory : ∃ t, exec .decode (s0 [0x07]) = .next t := ⟨_, rfl⟩

theorem test_witness_DecodeFrame :
    isDecode .decode = true ∧ isDecode (.bx 0) = true ∧ ∃ t, exec (.bx 0) (s0 [0x07]) = .next t := ⟨rfl, rfl, _, rfl⟩

/-- The three clauses: an empty stream; the mode byte alone; one of two displacement bytes. -/
theorem test_witness_DecodeTrapsAtTheEndOfTheStream :
    (Good (s0 []) ∧ (s0 []).code.length ≤ (s0 []).cur) ∧
      ((s0 [0x46]).code[(s0 [0x46]).cur]? = some 0x46 ∧ (s0 [0x46]).code.length = (s0 [0x46]).cur + 1 ∧
        formatOf (muxOf 0x46) (memIndexOf 0x46) ≠ .m0) ∧
      ((s0 [0x06, 1]).code[(s0 [0x06, 1]).cur]? = some 0x06 ∧ (s0 [0x06, 1]).code.length = (s0 [0x06, 1]).cur + 2 ∧
        formatOf (muxOf 0x06) (memIndexOf 0x06) = .m16) := by decide

theorem test_witness_RegisterDecodeDiscardsTheOverride :
    ∃ t, Good { s0 [0xC1] with override := some 0 } ∧ exec .decode { s0 [0xC1] with override := some 0 } = .next t ∧
      t.resolution = .register ⟨3, 0, 1⟩ := ⟨_, rfl, rfl, rfl⟩

theorem test_witness_OverrideAffectsOneDecodeOnly :
    ∃ t u, exec .decode { s0 [0x07, 0x07] with override := some 0 } = .next t ∧ RespondedOk t ∧
      exec .decode t = .next u ∧ RespondedOk u ∧ u.resolution = .memory ⟨0, 0, 7⟩ 3 0x2000 0x62000 :=
  ⟨_, _, rfl, rfl, rfl, rfl, rfl⟩

/-- The last vector of V-OV: ES is written between the arming and the `decode`. -/
theorem test_witness_OverrideReadsTheSegmentAtDecode :
    ∃ a t, exec (.armOverride 0) (s0 [0x07]) = .next a ∧ exec .decode (a.setSeg 0 0x4100) = .next t ∧ RespondedOk t ∧
      t.resolution = .memory ⟨0, 0, 7⟩ 0 0x2000 0x43000 := ⟨_, _, rfl, rfl, rfl, rfl⟩

/-- The greatest slot, and the smallest index that is none: the hypotheses of `ArmOverrideLatchesTheIndex` and
`ArmOverrideTrapsAboveTheSlots`. -/
theorem test_witness_ArmOverride : Good (s0 []) ∧ (3 < 4 ∧ 4 ≤ 4) := by decide

theorem test_witness_ClearOverrideCompletes : Good { s0 [] with override := some 3 } := rfl

/-- The register operand and the memory operand, `regIndex` at the two sides of the boundary: the hypotheses of
`GetRegReturnsTheRegIndexRegister`, `SetRegWritesTheRegIndexRegister`, `SegAccessorsUseTheRegIndexSlot` and
`SegAccessorsTrapAboveTheSlots`. -/
theorem test_witness_reg_accessors :
    (regOperand 3 0).resolution.fields = some ⟨3, 3, 0⟩ ∧ (bxOperand 4).resolution.fields = some ⟨0, 4, 7⟩ ∧
      Good (regOperand 3 0) ∧ Good (bxOperand 4) ∧ (3 : BitVec 3) < 4 ∧ (4 : BitVec 3) ≤ 4 ∧
      (3 : BitVec 3).toNat < 4 ∧ 4 ≤ (4 : BitVec 3).toNat := by decide

/-- The register operands at the two sides of the boundary of the byte registers. -/
theorem test_witness_MemAccessorsReachTheRegisterOperand :
    (regOperand 0 3).resolution = .register ⟨3, 0, 3⟩ ∧ (regOperand 0 4).resolution = .register ⟨3, 0, 4⟩ ∧
      Good (regOperand 0 3) ∧ Good (regOperand 0 4) ∧ (3 : BitVec 3) < 4 ∧ (4 : BitVec 3) ≤ 4 := by decide

/-- A memory operand at the top of memory that the bus accepts, in canonical memory: the hypotheses of
`GetMemReadsTheLatchedAddress`, `SetMemWritesTheLatchedAddress`, `ByteStoreChangesOneByte` and `WordStoreIsLittleEndian`. -/
theorem test_witness_accepted_access :
    (memOperand 0xFFFFF).resolution = .memory ⟨0, 0, 7⟩ 3 0 0xFFFFF ∧ Good (memOperand 0xFFFFF) ∧
      (memOperand 0xFFFFF).mem.wf = true ∧
      (memOperand 0xFFFFF).addrValid 0xFFFFF .read = true ∧ (memOperand 0xFFFFF).addrValid (0xFFFFF + 1) .read = true ∧
      (memOperand 0xFFFFF).addrValid 0xFFFFF .write = true ∧
      (memOperand 0xFFFFF).addrValid (0xFFFFF + 1) .write = true := by and_intros <;> rfl

/-- The memory operand at 0x62000, where the bus rejects only one byte of the word. -/
def rejecting (pa : PhysAddr) : State := { bxOperand 0 with rejects := [(pa, .read), (pa, .write)] }

/-- Each way an access is rejected, the low byte, and the high byte of a word alone: the hypotheses of `RejectedAccessesTrap` and
`RejectedWordWriteChangesAtMostItsBytes`. -/
theorem test_witness_rejected_access :
    (rejecting 0x62000).addrValid 0x62000 .read = false ∧ (rejecting 0x62000).addrValid 0x62000 .write = false ∧
      (rejecting 0x62001).addrValid 0x62000 .read = true ∧ (rejecting 0x62001).addrValid (0x62000 + 1) .read = false ∧
      (rejecting 0x62001).addrValid (0x62000 + 1) .write = false ∧
      (rejecting 0x62001).resolution = .memory ⟨0, 0, 7⟩ 3 0x2000 0x62000 ∧ Good (rejecting 0x62001) := by and_intros <;> rfl

/-- Both routes of the round trip: memory and a register. -/
theorem test_witness_MemAccessorsRoundTrip :
    (∃ t, exec (.setMem16 0xBEEF) (memOperand 0xFFFFF) = .next t ∧ RespondedOk t) ∧
      (∃ t, exec (.setMem8 0xEF) (memOperand 0xFFFFF) = .next t ∧ RespondedOk t) ∧
      (∃ t, exec (.setMem16 0xBEEF) (regOperand 0 7) = .next t ∧ RespondedOk t) ∧
      (regOperand 0 7).mem.wf = true ∧ Good (regOperand 0 7) :=
  ⟨⟨_, rfl, rfl⟩, ⟨_, rfl, rfl⟩, ⟨_, rfl, rfl⟩, by decide, rfl⟩

theorem test_witness_RegAccessorsRoundTrip :
    (∃ t, exec (.setReg16 0xBEEF) (bxOperand 3) = .next t ∧ RespondedOk t) ∧
      (∃ t, exec (.setReg8 0xEF) (bxOperand 4) = .next t ∧ RespondedOk t) ∧
      ∃ t, exec (.setSeg 0xBEEF) (bxOperand 3) = .next t ∧ RespondedOk t :=
  ⟨⟨_, rfl, rfl⟩, ⟨_, rfl, rfl⟩, ⟨_, rfl, rfl⟩⟩

theorem test_witness_ByteRegistersAreHalves : (4 : BitVec 3) ≤ 4 := by decide

theorem test_witness_AccessorsKeepTheBlockState :
    isAccessor (.setMem16 0xBEEF) = true ∧ Good (bxOperand 0) ∧
      ∃ t, exec (.setMem16 0xBEEF) (bxOperand 0) = .next t ∧ RespondedOk t := ⟨rfl, rfl, _, rfl, rfl⟩

/-- `[BX]` with `regIndex` 3: the base register BX, its byte BL, and DS are written. -/
theorem test_witness_ResolvedAddressDoesNotFollowRegisters :
    (bxOperand 3).resolution = .memory ⟨0, 3, 7⟩ 3 0x2000 0x62000 ∧ (bxOperand 3).addrValid 0x62000 .read = true ∧
      (bxOperand 3).addrValid (0x62000 + 1) .read = true ∧
      (∃ t, exec (.setReg16 0x7777) (bxOperand 3) = .next t ∧ RespondedOk t) ∧
      (∃ t, exec (.setReg8 0x77) (bxOperand 3) = .next t ∧ RespondedOk t) ∧
      ∃ t, exec (.setSeg 0x7000) (bxOperand 3) = .next t ∧ RespondedOk t :=
  ⟨rfl, by decide, rfl, ⟨_, rfl, rfl⟩, ⟨_, rfl, rfl⟩, ⟨_, rfl, rfl⟩⟩

theorem test_witness_RegisterOperandNeverInvokesTheBus :
    isAccessor (.setMem16 0xBEEF) = true ∧ (regOperand 0 3).resolution = .register ⟨3, 0, 3⟩ ∧
      ∃ t, exec (.setMem16 0xBEEF) (regOperand 0 3) = .next t := ⟨rfl, rfl, _, rfl⟩

theorem test_witness_AccessorsTrapWhileUnresolved :
    isAccessor .getMem16 = true ∧ Good (s0 [0x07]) ∧ (s0 [0x07]).resolution = .unresolved := ⟨rfl, rfl, rfl⟩

theorem test_witness_FaultIsStickyUntilReset :
    ({ s0 [0x07] with fault := some .protocolViolation } : State).fault = some .protocolViolation ∧
      Instr.decode ≠ .reset := ⟨rfl, by decide⟩

/-- A state that no run reaches: the fault register already holds `InvariantViolation`. -/
theorem test_witness_InvariantViolationIsNeverRaised :
    ∃ s t : State, step s = .next t ∧ t.fault = some .invariantViolation :=
  ⟨{ s0 [] with fault := some .invariantViolation }, _, rfl, rfl⟩

theorem test_witness_OnlyDecodeMovesTheCursor :
    (∃ t, exec (.setReg16 1) (bxOperand 0) = .next t) ∧ isDecode (.setReg16 1) = false ∧
      ∃ t, exec .decode (s0 [0x86, 0x34, 0x12]) = .next t ∧ t.cur = 3 := ⟨⟨_, rfl⟩, rfl, _, rfl, rfl⟩

theorem test_witness_LaunchConfigurationIsFixed : ∃ t, step (State.asking (s0 [0x07]) 0 0) = .next t := ⟨_, rfl⟩

/-- Each clause: a getter, a register operand, a memory operand of another instruction, a segment register kept. -/
theorem test_witness_OnlySettersWriteCollaborators :
    (∃ t, exec .getMem16 (bxOperand 0) = .next t) ∧
      (∃ t, exec (.setMem16 0xBEEF) (regOperand 0 3) = .next t) ∧
      (∀ f seg off pa, (regOperand 0 3).resolution ≠ .memory f seg off pa) ∧
      ∃ t, exec (.setSeg 0x7000) (bxOperand 3) = .next t :=
  ⟨⟨_, rfl⟩, ⟨_, rfl⟩, by rintro _ _ _ _ ⟨⟩, ⟨_, rfl⟩⟩

/-- The invariant holds in a resolved state with memory listed, and a step from it answers. -/
theorem test_witness_StepKeepsTheInvariant :
    ∃ t, Inv (State.asking (bxOperand 0) 12 0xBEEF) ∧ step (State.asking (bxOperand 0) 12 0xBEEF) = .next t :=
  ⟨_, ⟨by decide, by decide, fun _ => ⟨by decide, 0x6000, rfl⟩⟩, rfl⟩

end Sys2Proof.Tests
end

namespace Sys2Proof.Proofs.Scope

open Sys2Proof Sys2Proof.Machine

/-- Settles O1: the request at the head of the script selects the arm of `step` for commands, and the instruction that the
command decodes to selects the branch in it that is `exec` alone (00_scope.md R9, 30_encoding.md R72). -/
theorem stepServesTheCommandAtThePort : Obligations.StepServesTheCommandAtThePort := by
  unfold Obligations.StepServesTheCommandAtThePort
  intro s code arg rest i hscript hdecode
  simp only [step, hscript, hdecode]

end Sys2Proof.Proofs.Scope

namespace Sys2Proof.Proofs.Effects

/-! What an instruction and a step can do, said once (10_state.md R25 to R29): every frame and every invariant of the machine is a
case split over these. -/

open Sys2Proof Sys2Proof.Machine

/-! ### The specifier that the stream does not hold -/

/-- A missing displacement byte: the stream is shorter than the format says. -/
theorem takeByte_truncated {form : Byte → Instr} {bytes : List Byte} {f : Format}
    (h : takeByte form bytes = .error (.truncated f)) : bytes.length < f.dispBytes := by
  rcases takeByte_cases form bytes with ⟨d, rest, rfl, e⟩ | ⟨rfl, e⟩ <;> rw [e] at h <;> cases h
  decide

/-- A missing byte of a displacement word: the stream is shorter than the format says. -/
theorem takeWord_truncated {form : Word → Instr} {bytes : List Byte} {f : Format}
    (h : takeWord form bytes = .error (.truncated f)) : bytes.length < f.dispBytes := by
  rcases takeWord_cases form bytes with ⟨lo, hi, rest, rfl, e⟩ | ⟨hlt, e⟩ <;> rw [e] at h <;> cases h
  exact hlt

/-- By the two bits of `mux`: no displacement but for `[d16]`, one byte, two bytes, none (30_encoding.md R65). -/
theorem selectForm_truncated {m1 m0 x2 x1 x0 : Bool} {r : BitVec 3} {rest : List Byte} {f : Format}
    (h : selectForm m1 m0 x2 x1 x0 r rest = .error (.truncated f)) : rest.length < f.dispBytes := by
  cases m1 <;> cases m0
  case false.false =>
    cases x2 <;> cases x1 <;> cases x0
    case true.true.false => exact takeWord_truncated h
    all_goals cases h
  case false.true => cases x2 <;> cases x1 <;> cases x0 <;> exact takeByte_truncated h
  case true.false => cases x2 <;> cases x1 <;> cases x0 <;> exact takeWord_truncated h
  case true.true => cases x2 <;> cases x1 <;> cases x0 <;> cases h

/-- A specifier that decodes as cut short needs more bytes than there are (40_decode.md R97). -/
theorem decodeSpecifier_truncated {bytes : List Byte} {f : Format}
    (h : decodeSpecifier bytes = .error (.truncated f)) : bytes.length < 1 + f.dispBytes := by
  cases bytes with
  | nil => simp
  | cons b rest =>
    have := selectForm_truncated h
    simp only [List.length_cons]
    omega

/-- The stream from the cursor on, cut short: the fetches of the specifier fail. -/
theorem upcoming_truncated {s : State} {f : Format} (h : decodeSpecifier s.upcoming = .error (.truncated f)) :
    s.code.length < s.cur + 1 + f.dispBytes := by
  have := decodeSpecifier_truncated h
  simp only [State.upcoming, List.length_drop] at this
  omega

/-- Only a form is run; every other instruction stops there (60_exceptions.md R173). -/
theorem isForm_of_runForm {i : Instr} {s t : State} (h : runForm i s = .next t) : i.isForm = true := by
  cases i <;> first | rfl | cases h

/-! ### What an instruction can do -/

/-- The command was not carried out: refused while faulted, or an error raised with every collaborator as it was
(60_exceptions.md R176). -/
inductive Declined (s : State) : State → Prop where
  | refused (k : ErrorKind) (h : s.fault = some k) : Declined s (refuse k s)
  | raised (k : ErrorKind) (recorded : Option Nat) (left : Aftermath) : Declined s (takeError k recorded left s)

/-- The instructions that can write a general register (10_state.md R22). -/
inductive WritesRegister : Instr → Prop where
  | setReg8 (v : Byte) : WritesRegister (.setReg8 v)
  | setReg16 (v : Word) : WritesRegister (.setReg16 v)
  | setMem8 (v : Byte) : WritesRegister (.setMem8 v)
  | setMem16 (v : Word) : WritesRegister (.setMem16 v)

/-- The instructions that can write memory, where the operand is memory (10_state.md R26). -/
inductive Stores : Instr → Prop where
  | setMem8 (v : Byte) : Stores (.setMem8 v)
  | setMem16 (v : Word) : Stores (.setMem16 v)

/-- Every way an instruction can end in a next state, with the collaborator it writes and when it may. A write of an 8-bit
register is one of the 16-bit register that holds it (10_state.md R21). -/
inductive Effect (i : Instr) (s : State) : State → Prop where
  | declined {t : State} (h : Declined s t) : Effect i s t
  | resolved (hi : isDecode i = true) (f : Format) (resolve : State → State) (hr : Resolves resolve)
      (hlen : s.cur + 1 + f.dispBytes ≤ s.code.length) :
      Effect i s (respond .ok (resolve { s with cur := s.cur + 1 + f.dispBytes }))
  | exhausted (hi : isDecode i = true) (u : State) (hu : FetchFailed s u) :
      Effect i s (takeError .streamExhausted none .unresolved u)
  | answered (r : Response) : Effect i s (respond r s)
  | wroteRegister (hi : WritesRegister i) (j : BitVec 3) (v : Word) : Effect i s (respond .ok (s.setReg16 j v))
  | wroteSegment {v : Word} (hi : i = .setSeg v) (k : SegIndex) : Effect i s (respond .ok (s.setSeg k v))
  | storedByte (hi : Stores i) {f : Fields} {seg : SegIndex} {off : Word} {pa : PhysAddr}
      (hm : s.resolution = .memory f seg off pa) (v : Byte) : Effect i s (respond .ok (s.setByteAt pa v))
  | storedWord (hi : Stores i) {f : Fields} {seg : SegIndex} {off : Word} {pa : PhysAddr}
      (hm : s.resolution = .memory f seg off pa) (v : Word) : Effect i s (respond .ok (s.setWordAt pa v))
  | rejectedWord (hi : Stores i) {f : Fields} {seg : SegIndex} {off : Word} {pa : PhysAddr}
      (hm : s.resolution = .memory f seg off pa) (v : Word) (n : Nat) :
      Effect i s (memoryAccessError pa { s.setWordAt pa v with fresh := n })
  | latched (o : Option SegIndex) : Effect i s (respond .ok { s with override := o })
  | reset : Effect i s (respond .ok { s with resolution := .unresolved, override := none, fault := none })

/-- Behind the common entry only the body is left to look at. -/
theorem whenNoFault_effect {i : Instr} {body : State → Out} {s t : State} (hb : body s = .next t → Effect i s t)
    (h : whenNoFault body s = .next t) : Effect i s t := by
  cases hf : s.fault with
  | some k =>
    rw [whenNoFault_faulted hf] at h
    cases h
    exact .declined (.refused k hf)
  | none => exact hb (by rwa [whenNoFault_good hf] at h)

/-- Behind the accessors' precondition the work on a register and on memory is left to look at (46_accessors.md R150). -/
theorem whenResolved_effect {i : Instr} {onReg : Fields → State → State} {onMem : Fields → PhysAddr → State → State}
    {s t : State} (hreg : ∀ f, Effect i s (onReg f s))
    (hmem : ∀ f seg off pa, s.resolution = .memory f seg off pa → Effect i s (onMem f pa s))
    (h : whenResolved onReg onMem s = .next t) : Effect i s t := by
  rcases whenResolved_cases onReg onMem s with
    ⟨k, hf, e⟩ | ⟨_, _, e⟩ | ⟨_, f, _, e⟩ | ⟨_, f, seg, off, pa, hm, e⟩ <;> rw [e] at h <;> cases h
  · exact .declined (.refused k hf)
  · exact .declined (.raised _ _ _)
  · exact hreg f
  · exact hmem f seg off pa hm

/-- An accessor of the other operand does the same in both resolved states. -/
theorem whenResolvedReg_effect {i : Instr} {body : BitVec 3 → State → State} {s t : State}
    (hb : ∀ j, Effect i s (body j s)) (h : whenResolvedReg body s = .next t) : Effect i s t :=
  whenResolved_effect (fun f => hb f.regIndex) (fun f _ _ _ _ => hb f.regIndex) h

/-- An accessor of the r/m operand reaches a register or the latched address. -/
theorem whenResolvedMem_effect {i : Instr} {onReg : BitVec 3 → State → State} {onMem : PhysAddr → State → State}
    {s t : State} (hreg : ∀ j, Effect i s (onReg j s))
    (hmem : ∀ f seg off pa, s.resolution = .memory f seg off pa → Effect i s (onMem pa s))
    (h : whenResolvedMem onReg onMem s = .next t) : Effect i s t :=
  whenResolved_effect (fun f => hreg f.memIndex) hmem h

/-- A segment accessor does its work on a slot or raises (46_accessors.md R155, R156). -/
theorem withSegSlot_effect {i : Instr} {body : SegIndex → State → State} {s : State} (j : BitVec 3)
    (hb : ∀ k, Effect i s (body k s)) : Effect i s (withSegSlot body j s) := by
  unfold withSegSlot
  split
  · exact hb _
  · exact .declined (.raised _ _ _)

/-- A form resolves an operand or runs out of stream; what runs it may be the command `decode`. -/
theorem form_effect {i j : Instr} {s t : State} (hi : isDecode i = true) (hj : j.isForm = true)
    (h : exec j s = .next t) : Effect i s t := by
  rcases exec_form_cases j hj s with ⟨k, hf, e⟩ | ⟨_, f, resolve, hlen, hr, e⟩ | ⟨_, u, hu, e⟩ <;> rw [e] at h <;>
    cases h
  · exact .declined (.refused k hf)
  · exact .resolved hi f resolve hr hlen
  · exact .exhausted hi u hu

/-- A specifier that the stream does not hold resolves nothing. -/
theorem truncated_effect {i : Instr} {s t : State} {f : Format} (hi : isDecode i = true)
    (hd : decodeSpecifier s.upcoming = .error (.truncated f)) (h : execTruncated f s = .next t) : Effect i s t := by
  have hshort := upcoming_truncated hd
  rw [execTruncated] at h
  rcases specifier_cases f id s with ⟨k, hf, e⟩ | ⟨_, hlen, _⟩ | ⟨_, _, u, hu, e⟩
  · rw [e] at h; cases h; exact .declined (.refused k hf)
  · omega
  · rw [e] at h; cases h; exact .exhausted hi u hu

/-- The command `decode` runs the form at the cursor, or finds the stream too short. -/
theorem decode_effect {s t : State} (h : exec .decode s = .next t) : Effect .decode s t := by
  simp only [exec, execDecode] at h
  refine whenNoFault_effect (fun h => ?_) h
  split at h
  · have hj := isForm_of_runForm h
    exact form_effect rfl hj (by rwa [runForm_eq_exec _ s hj] at h)
  · exact truncated_effect rfl ‹_› h
  · cases h

/-- What each accessor does with its operand (46_accessors.md R151 to R160). -/
theorem accessor_effect {i : Instr} {s t : State} (hi : isAccessor i = true) (h : exec i s = .next t) :
    Effect i s t := by
  cases i <;> cases hi
  all_goals simp only [exec, execGetReg8, execGetReg16, execSetReg8, execSetReg16, execGetSeg, execSetSeg, execGetMem8,
    execGetMem16, execSetMem8, execSetMem16] at h
  case getReg8 => exact whenResolvedReg_effect (fun _ => by exact .answered _) h
  case getReg16 => exact whenResolvedReg_effect (fun _ => by exact .answered _) h
  case setReg8 v => exact whenResolvedReg_effect (fun _ => by exact .wroteRegister (.setReg8 v) _ _) h
  case setReg16 v => exact whenResolvedReg_effect (fun _ => by exact .wroteRegister (.setReg16 v) _ _) h
  case getSeg => exact whenResolvedReg_effect (fun j => by exact withSegSlot_effect j fun _ => .answered _) h
  case setSeg v => exact whenResolvedReg_effect (fun j => by exact withSegSlot_effect j fun k => .wroteSegment rfl k) h
  case getMem8 =>
    refine whenResolvedMem_effect (fun _ => by exact .answered _) (fun _ _ _ pa _ => ?_) h
    cases memRead8 pa s
    · exact .declined (.raised _ _ _)
    · exact .answered _
  case getMem16 =>
    refine whenResolvedMem_effect (fun _ => by exact .answered _) (fun _ _ _ pa _ => ?_) h
    cases memRead16 pa s
    · exact .declined (.raised _ _ _)
    · exact .answered _
  case setMem8 v =>
    refine whenResolvedMem_effect (fun _ => by exact .wroteRegister (.setMem8 v) _ _) (fun _ _ _ pa hm => ?_) h
    cases hv : s.addrValid pa .write <;> simp only [memWrite8, hv]
    · exact .declined (.raised _ _ _)
    · exact .storedByte (.setMem8 v) hm v
  case setMem16 v =>
    refine whenResolvedMem_effect (fun _ => by exact .wroteRegister (.setMem16 v) _ _) (fun _ _ _ pa hm => ?_) h
    cases hv : s.wordValid pa .write <;> simp only [memWrite16, hv]
    · exact .rejectedWord (.setMem16 v) hm _ _
    · exact .storedWord (.setMem16 v) hm v

/-- Every next state an instruction answers is one of its effects. -/
theorem exec_effect {i : Instr} {s t : State} (h : exec i s = .next t) : Effect i s t := by
  rcases instr_cases i with hi | hi | rfl | ⟨n, rfl⟩ | rfl | rfl
  · exact form_effect (by simp [isDecode, hi]) hi h
  · exact accessor_effect hi h
  · exact decode_effect h
  · simp only [exec, execArmOverride] at h
    refine whenNoFault_effect (fun h => ?_) h
    split at h <;> cases h
    · exact .latched _
    · exact .declined (.raised _ _ _)
  · simp only [exec, execClearOverride] at h
    exact whenNoFault_effect (fun h => by cases h; exact .latched none) h
  · cases h
    exact .reset

/-- Every next state of a step: idle, a command run, a code that spells no command, or a move of the caller. -/
theorem step_cases {s t : State} (h : step s = .next t) :
    t = s ∨ (∃ i, Effect i s t) ∨ Declined s t ∨ ∃ m, t = runCallerMove m s := by
  unfold step at h
  split at h
  · cases h; exact .inl rfl
  · split at h
    · exact .inr (.inl ⟨_, exec_effect h⟩)
    · unfold execUnassignedCode at h
      cases hf : s.fault with
      | some k =>
        rw [whenNoFault_faulted hf] at h
        cases h
        exact .inr (.inr (.inl (.refused k hf)))
      | none =>
        rw [whenNoFault_good hf] at h
        cases h
        exact .inr (.inr (.inl (.raised _ _ _)))
  · cases h; exact .inr (.inr (.inr ⟨_, rfl⟩))

/-! ### What stays -/

/-- After a command not carried out a fault is held. -/
theorem Declined.not_good {s t : State} (h : Declined s t) : ¬ Good t := by
  cases h with
  | refused k hf => simp [hf]
  | raised k recorded left => simp

/-- A command not carried out leaves memory as it was, listed entry by listed entry. -/
theorem Declined.mem_eq {s t : State} (h : Declined s t) : t.mem = s.mem := by
  cases h with
  | refused k hf => rfl
  | raised k recorded left => exact takeError_mem s k recorded left

/-- A command not carried out leaves every collaborator. -/
theorem Declined.sameCollaborators {s t : State} (h : Declined s t) : SameCollaborators s t where
  r16 := by cases h <;> simp
  sreg := by cases h <;> simp
  cur := by cases h <;> simp
  bytes a := by rw [h.mem_eq]
  code := by cases h <;> simp
  rejects := by cases h <;> simp

/-- Resolving an operand leaves memory as it was, listed entry by listed entry. -/
theorem resolves_mem_eq {resolve : State → State} (h : Resolves resolve) (s : State) : (resolve s).mem = s.mem := by
  cases h <;> rfl

/-- Resolving an operand touches no collaborator (40_decode.md R95). -/
theorem resolves_sameCollaborators {resolve : State → State} (h : Resolves resolve) (s : State) :
    SameCollaborators s (resolve s) := by
  cases h <;> exact ⟨rfl, rfl, rfl, fun _ => rfl, rfl, rfl⟩

/-- A failed fetch can change the cursor and no other collaborator. -/
theorem fetchFailed_frame {s u : State} (h : FetchFailed s u) :
    u.r16 = s.r16 ∧ u.sreg = s.sreg ∧ u.mem = s.mem ∧ u.code = s.code ∧ u.rejects = s.rejects := by
  rw [h.eq]
  exact ⟨rfl, rfl, rfl, rfl, rfl⟩

/-- Memory changes only by a store to a memory operand. -/
theorem Effect.mem_eq_or {i : Instr} {s t : State} (h : Effect i s t) :
    t.mem = s.mem ∨ Stores i ∧ ∃ f seg off pa, s.resolution = .memory f seg off pa := by
  cases h with
  | declined h => exact .inl h.mem_eq
  | resolved _ _ _ hr _ => exact .inl (resolves_mem_eq hr _)
  | exhausted _ u hu =>
    obtain ⟨_, _, hmem, _, _⟩ := fetchFailed_frame hu
    exact .inl ((takeError_mem u _ _ _).trans hmem)
  | storedByte hi hm => exact .inr ⟨hi, _, _, _, _, hm⟩
  | storedWord hi hm => exact .inr ⟨hi, _, _, _, _, hm⟩
  | rejectedWord hi hm => exact .inr ⟨hi, _, _, _, _, hm⟩
  | answered | wroteRegister | wroteSegment | latched | reset => exact .inl rfl

/-- A general register changes only by one of the four setters that reach it. -/
theorem Effect.r16_eq_or {i : Instr} {s t : State} (h : Effect i s t) : t.r16 = s.r16 ∨ WritesRegister i := by
  cases h with
  | declined h => exact .inl h.sameCollaborators.r16
  | resolved _ _ _ hr _ => exact .inl (resolves_sameCollaborators hr _).r16
  | exhausted _ u hu =>
    obtain ⟨hr16, _, _, _, _⟩ := fetchFailed_frame hu
    exact .inl ((takeError_r16 u _ _ _).trans hr16)
  | wroteRegister hi => exact .inr hi
  | answered | wroteSegment | storedByte | storedWord | rejectedWord | latched | reset => exact .inl rfl

/-- A segment register changes only by `setSeg`. -/
theorem Effect.sreg_eq_or {i : Instr} {s t : State} (h : Effect i s t) : t.sreg = s.sreg ∨ ∃ v, i = .setSeg v := by
  cases h with
  | declined h => exact .inl h.sameCollaborators.sreg
  | resolved _ _ _ hr _ => exact .inl (resolves_sameCollaborators hr _).sreg
  | exhausted _ u hu =>
    obtain ⟨_, hsreg, _, _, _⟩ := fetchFailed_frame hu
    exact .inl ((takeError_sreg u _ _ _).trans hsreg)
  | wroteSegment hi => exact .inr ⟨_, hi⟩
  | answered | wroteRegister | storedByte | storedWord | rejectedWord | latched | reset => exact .inl rfl

/-- The longest specifier is three bytes (30_encoding.md R64). -/
theorem dispBytes_le_two (f : Format) : f.dispBytes ≤ 2 := by cases f <;> decide

/-- The cursor stays, or a decode moves it on by at most 3. -/
theorem Effect.cur_eq_or {i : Instr} {s t : State} (h : Effect i s t) :
    t.cur = s.cur ∨ isDecode i = true ∧ s.cur ≤ t.cur ∧ t.cur ≤ s.cur + 3 := by
  cases h with
  | declined h => exact .inl h.sameCollaborators.cur
  | resolved hi f resolve hr _ =>
    have hcur := (resolves_sameCollaborators hr { s with cur := s.cur + 1 + f.dispBytes }).cur
    have := dispBytes_le_two f
    refine .inr ⟨hi, ?_⟩
    rw [respond_cur, hcur]
    constructor <;> simp only <;> omega
  | exhausted hi u hu =>
    have hlow := hu.low
    have hhigh := hu.high
    refine .inr ⟨hi, ?_⟩
    rw [takeError_cur]
    omega
  | answered | wroteRegister | wroteSegment | storedByte | storedWord | rejectedWord | latched | reset => exact .inl rfl

/-- No instruction writes the stream or the acceptance test. -/
theorem Effect.code_rejects_eq {i : Instr} {s t : State} (h : Effect i s t) :
    t.code = s.code ∧ t.rejects = s.rejects := by
  cases h with
  | declined h => exact ⟨h.sameCollaborators.code, h.sameCollaborators.rejects⟩
  | resolved _ _ _ hr _ =>
    have hsame := resolves_sameCollaborators hr
    exact ⟨(hsame _).code, (hsame _).rejects⟩
  | exhausted _ u hu =>
    obtain ⟨_, _, _, hcode, hrejects⟩ := fetchFailed_frame hu
    exact ⟨(takeError_code u _ _ _).trans hcode, (takeError_rejects u _ _ _).trans hrejects⟩
  | answered | wroteRegister | wroteSegment | storedByte | storedWord | rejectedWord | latched | reset =>
    exact ⟨rfl, rfl⟩

/-! ### The invariant -/

/-- What a form resolves to agrees with its `mux`, and its physical address with its offset (10_state.md R17). -/
theorem resolves_consistent {resolve : State → State} (h : Resolves resolve) (s : State) :
    (resolve s).resolution.Consistent := by
  cases h with
  | register f hf => exact hf
  | memory f d off hf => exact ⟨hf, _, rfl⟩

/-- A command not carried out keeps the invariant: what it may leave in the operand, it leaves under a held fault. -/
theorem Declined.inv {s t : State} (hs : Inv s) (h : Declined s t) : Inv t where
  memory := h.mem_eq ▸ hs.memory
  cursor := by rw [h.sameCollaborators.cur, h.sameCollaborators.code]; exact hs.cursor
  operand hg := absurd hg h.not_good

/-- A failed fetch keeps the invariant. -/
theorem fetchFailed_inv {s u : State} (hs : Inv s) (h : FetchFailed s u) : Inv u := by
  have hcur := h.within hs.cursor
  rw [h.eq]
  exact ⟨hs.memory, hcur, hs.operand⟩

/-- Every instruction keeps the invariant: a store the canonical form, a decode the bound of the cursor and the agreement of
the operand. -/
theorem Effect.inv {i : Instr} {s t : State} (hs : Inv s) (h : Effect i s t) : Inv t := by
  cases h with
  | declined h => exact h.inv hs
  | resolved _ f resolve hr hlen =>
    have hsame := resolves_sameCollaborators hr { s with cur := s.cur + 1 + f.dispBytes }
    refine ⟨?_, ?_, fun _ => resolves_consistent hr _⟩
    · rw [respond_mem, resolves_mem_eq hr]
      exact hs.memory
    · rw [respond_cur, respond_code, hsame.cur, hsame.code]
      exact hlen
  | exhausted _ u hu => exact (Declined.raised _ _ _).inv (fetchFailed_inv hs hu)
  | storedByte _ _ v => exact ⟨setByteAt_wf hs.memory _ v, hs.cursor, hs.operand⟩
  | storedWord _ _ v => exact ⟨setWordAt_wf hs.memory _ v, hs.cursor, hs.operand⟩
  | @rejectedWord _ _ _ _ pa _ v n =>
    have hstored : Inv { s.setWordAt pa v with fresh := n } := ⟨setWordAt_wf hs.memory pa v, hs.cursor, hs.operand⟩
    exact (Declined.raised _ _ _).inv hstored
  | reset => exact ⟨hs.memory, hs.cursor, fun _ => trivial⟩
  | answered | wroteRegister | wroteSegment | latched => exact ⟨hs.memory, hs.cursor, hs.operand⟩

/-- The one byte fetch: it takes a byte of the stream, or leaves the state (20_memory.md R42). -/
theorem nextByte_cases (s : State) :
    (∃ b, s.cur + 1 ≤ s.code.length ∧ nextByte s = .ok (b, { s with cur := s.cur + 1 })) ∨ nextByte s = .error s := by
  cases hb : s.code[s.cur]? with
  | some b => exact .inl ⟨b, (List.getElem?_eq_some_iff.mp hb).1, nextByte_ok hb⟩
  | none => exact .inr (nextByte_exhausted (by simpa using hb))

/-- The word fetch that fails passes at most the last byte (20_memory.md R43). -/
theorem wordFetchFailed_failed (s : State) : FetchFailed s (wordFetchFailed s) := by
  unfold wordFetchFailed
  split
  · refine ⟨rfl, ?_, ?_, ?_⟩ <;> simp only <;> split <;> omega
  · exact ⟨rfl, le_rfl, by omega, id⟩

/-- The word fetch: it takes two bytes of the stream, or fails (20_memory.md R43). -/
theorem nextWord_cases (s : State) :
    (∃ v, s.cur + 2 ≤ s.code.length ∧ nextWord s = .ok (v, { s with cur := s.cur + 2 })) ∨
      nextWord s = .error (wordFetchFailed s) := by
  rcases Nat.lt_or_ge s.code.length (s.cur + 2) with hl | hl
  · exact .inr (nextWord_exhausted hl)
  · exact .inl ⟨_, hl, nextWord_ok (List.getElem?_eq_getElem (by omega)) (List.getElem?_eq_getElem (by omega))⟩

/-- What the caller does to a collaborator keeps the invariant: its store the canonical form, its fetches the bound of the
cursor (70_reset_and_hazards.md R203). -/
theorem callerEffect_inv {s : State} (hs : Inv s) (m : CallerMove) : Inv (callerEffect m s) := by
  cases m with
  | writeReg16 | writeReg8 | writeSeg => exact ⟨hs.memory, hs.cursor, hs.operand⟩
  | writeByte pa v => exact ⟨setByteAt_wf hs.memory pa v, hs.cursor, hs.operand⟩
  | fetchByte =>
    rcases nextByte_cases s with ⟨b, hl, e⟩ | e <;> simp only [callerEffect, e]
    · exact ⟨hs.memory, hl, hs.operand⟩
    · exact hs
  | fetchWord =>
    rcases nextWord_cases s with ⟨v, hl, e⟩ | e <;> simp only [callerEffect, e]
    · exact ⟨hs.memory, hl, hs.operand⟩
    · exact fetchFailed_inv hs (wordFetchFailed_failed s)

/-- A served move of the caller keeps the invariant. -/
theorem runCallerMove_inv {s : State} (hs : Inv s) (m : CallerMove) : Inv (runCallerMove m s) := by
  obtain ⟨hmem, hcur, hop⟩ := callerEffect_inv hs m
  exact ⟨hmem, hcur, hop⟩

end Sys2Proof.Proofs.Effects

namespace Sys2Proof.Proofs.StateRules

open Sys2Proof Sys2Proof.Machine Sys2Proof.Proofs.Effects

/-- Settles O60, by what a step can do: idle it changes nothing, a command not carried out leaves the operand under a held fault,
and every other effect and every move of the caller keeps each part. -/
theorem stepKeepsTheInvariant : Obligations.StepKeepsTheInvariant := by
  unfold Obligations.StepKeepsTheInvariant
  intro s t hs h
  rcases step_cases h with rfl | ⟨i, he⟩ | hd | ⟨m, rfl⟩
  · exact hs
  · exact he.inv hs
  · exact hd.inv hs
  · exact runCallerMove_inv hs m

/-- No byte register is half of SP, BP, SI or DI (10_state.md R21). -/
theorem ne_byteHome {i j : BitVec 3} (h : 4 ≤ j) : j ≠ byteHome i := by revert i j; decide

/-- Settles O46: the byte registers by the 8-bit view's own law, and SP, BP, SI, DI because a byte register lives in one of the
first four registers. -/
theorem byteRegistersAreHalves : Obligations.ByteRegistersAreHalves := by
  unfold Obligations.ByteRegistersAreHalves
  intro s i v
  refine ⟨fun j => reg8_setReg8 s i j v, fun j hj => ?_⟩
  rw [State.setReg8, reg16_setReg16, if_neg (ne_byteHome hj)]

/-- Settles O56: an instruction's effect leaves the cursor or is a decode's. -/
theorem onlyDecodeMovesTheCursor : Obligations.OnlyDecodeMovesTheCursor := by
  unfold Obligations.OnlyDecodeMovesTheCursor
  intro i s t h
  rcases (exec_effect h).cur_eq_or with hcur | ⟨hi, hlow, hhigh⟩
  · exact ⟨fun _ => hcur, by omega, by omega⟩
  · exact ⟨fun hn => absurd hi (by simp [hn]), hlow, hhigh⟩

/-- Settles O57, by what a step can do. -/
theorem launchConfigurationIsFixed : Obligations.LaunchConfigurationIsFixed := by
  unfold Obligations.LaunchConfigurationIsFixed
  intro s t h
  rcases step_cases h with rfl | ⟨i, he⟩ | hd | ⟨m, rfl⟩
  · exact ⟨rfl, rfl⟩
  · exact he.code_rejects_eq
  · exact ⟨hd.sameCollaborators.code, hd.sameCollaborators.rejects⟩
  · obtain ⟨_, _, _, _, hcode, hrejects, _⟩ := callerEffect_block s m
    exact ⟨hcode, hrejects⟩

/-- Settles O58: an effect that changes memory, a general register or a segment register is one of the instructions that the
clause leaves out. -/
theorem onlySettersWriteCollaborators : Obligations.OnlySettersWriteCollaborators := by
  unfold Obligations.OnlySettersWriteCollaborators
  intro i s t h
  have he := exec_effect h
  refine ⟨fun h8 h16 a => ?_, fun hm a => ?_, fun hr8 hr16 h8 h16 => ?_, fun hseg => ?_⟩
  · rcases he.mem_eq_or with hmem | ⟨hi, _⟩
    · rw [hmem]
    · cases hi with
      | setMem8 v => exact absurd rfl (h8 v)
      | setMem16 v => exact absurd rfl (h16 v)
  · rcases he.mem_eq_or with hmem | ⟨_, f, seg, off, pa, hres⟩
    · rw [hmem]
    · exact absurd hres (hm f seg off pa)
  · rcases he.r16_eq_or with hreg | hi
    · exact hreg
    · cases hi with
      | setReg8 v => exact absurd rfl (hr8 v)
      | setReg16 v => exact absurd rfl (hr16 v)
      | setMem8 v => exact absurd rfl (h8 v)
      | setMem16 v => exact absurd rfl (h16 v)
  · rcases he.sreg_eq_or with hsreg | ⟨v, hi⟩
    · exact hsreg
    · exact absurd hi (hseg v)

/-- Settles O53: the three fields as `State.reset` writes them. -/
theorem resetStateOfTheBlock : Obligations.ResetStateOfTheBlock := by
  unfold Obligations.ResetStateOfTheBlock
  exact ⟨rfl, rfl, rfl⟩

/-- Settles O59: no byte is listed, the cursor stands at the end of the empty stream, and no operand is resolved. -/
theorem invariantHoldsAtReset : Obligations.InvariantHoldsAtReset := by
  unfold Obligations.InvariantHoldsAtReset
  exact ⟨rfl, le_rfl, fun _ => trivial⟩

end Sys2Proof.Proofs.StateRules

namespace Sys2Proof.Proofs.StreamEnd

/-! A `decode` that runs out of stream: which specifier it takes for cut short, and where each of its fetches stops
(20_memory.md R42, R43, 60_exceptions.md R171). -/

open Sys2Proof Sys2Proof.Machine Sys2Proof.Proofs.Effects

/-! ### The format that the decoder names -/

/-- A form of format M8 without its displacement byte (30_encoding.md R63). -/
theorem takeByte_short (form : Byte → Instr) {bytes : List Byte} (h : bytes.length < Format.m8.dispBytes) :
    takeByte form bytes = .error (.truncated .m8) := by
  rcases takeByte_cases form bytes with ⟨d, rest, rfl, _⟩ | ⟨_, e⟩
  · simp [Format.dispBytes] at h
  · exact e

/-- A form of format M16 without both its displacement bytes (30_encoding.md R64). -/
theorem takeWord_short (form : Word → Instr) {bytes : List Byte} (h : bytes.length < Format.m16.dispBytes) :
    takeWord form bytes = .error (.truncated .m16) := by
  rcases takeWord_cases form bytes with ⟨lo, hi, rest, rfl, _⟩ | ⟨_, e⟩
  · simp [Format.dispBytes] at h
  · exact e

/-- With fewer bytes than the selected format asks for, the selection ends at that format, by the two bits of `mux`
(30_encoding.md R65). -/
theorem selectForm_short {m1 m0 x2 x1 x0 : Bool} {f : Format} (r : BitVec 3) {rest : List Byte}
    (hf : formatOf (BitVec.ofBool m1 ++ BitVec.ofBool m0)
      (BitVec.ofBool x2 ++ BitVec.ofBool x1 ++ BitVec.ofBool x0) = f)
    (h : rest.length < f.dispBytes) : selectForm m1 m0 x2 x1 x0 r rest = .error (.truncated f) := by
  subst hf
  cases m1 <;> cases m0
  case false.false =>
    cases x2 <;> cases x1 <;> cases x0
    case true.true.false => exact takeWord_short _ h
    all_goals exact absurd h (Nat.not_lt_zero _)
  case false.true => cases x2 <;> cases x1 <;> cases x0 <;> exact takeByte_short _ h
  case true.false => cases x2 <;> cases x1 <;> cases x0 <;> exact takeWord_short _ h
  case true.true => cases x2 <;> cases x1 <;> cases x0 <;> exact absurd h (Nat.not_lt_zero _)

/-- A mode byte with fewer bytes behind it than its format asks for is cut short in that format. -/
theorem decodeSpecifier_short {b : Byte} {rest : List Byte}
    (h : rest.length < (formatOf (muxOf b) (memIndexOf b)).dispBytes) :
    decodeSpecifier (b :: rest) = .error (.truncated (formatOf (muxOf b) (memIndexOf b))) :=
  selectForm_short _ (by rw [muxOf_bits, memIndexOf_bits]) h

/-- At the end of the stream nothing is left of it. -/
theorem upcoming_eq_nil {s : State} (h : s.code.length ≤ s.cur) : s.upcoming = [] := List.drop_eq_nil_of_le h

/-- The stream from the cursor on, cut short behind its mode byte. -/
theorem upcoming_short {s : State} {b : Byte} (hb : s.code[s.cur]? = some b)
    (h : s.code.length < s.cur + 1 + (formatOf (muxOf b) (memIndexOf b)).dispBytes) :
    decodeSpecifier s.upcoming = .error (.truncated (formatOf (muxOf b) (memIndexOf b))) := by
  obtain ⟨hlt, rfl⟩ := List.getElem?_eq_some_iff.mp hb
  rw [State.upcoming, List.drop_eq_getElem_cons hlt]
  exact decodeSpecifier_short (by rw [List.length_drop]; omega)

/-! ### Where the fetches stop -/

/-- Without a mode byte nothing is fetched. -/
theorem fetchSpecifier_at_end {f : Format} {s : State} (h : s.code.length ≤ s.cur) : fetchSpecifier f s = .error s := by
  rw [fetchSpecifier, nextByte_exhausted h]

/-- Behind the mode byte, format M8 is a byte fetch (40_decode.md R84). -/
theorem fetchSpecifier_m8 {s : State} (h : s.cur < s.code.length) :
    fetchSpecifier .m8 s = (nextByte { s with cur := s.cur + 1 }).map Prod.snd := by
  rw [fetchSpecifier, nextByte_ok (List.getElem?_eq_getElem h)]

/-- Behind the mode byte, format M16 is a word fetch (40_decode.md R84). -/
theorem fetchSpecifier_m16 {s : State} (h : s.cur < s.code.length) :
    fetchSpecifier .m16 s = (nextWord { s with cur := s.cur + 1 }).map Prod.snd := by
  rw [fetchSpecifier, nextByte_ok (List.getElem?_eq_getElem h)]

/-- With the mode byte alone, the displacement fetch fails with the cursor behind that byte. -/
theorem fetchSpecifier_mode_byte_alone {f : Format} {s : State} (h : s.code.length = s.cur + 1) (hf : f ≠ .m0) :
    fetchSpecifier f s = .error { s with cur := s.cur + 1 } := by
  cases f with
  | m0 => exact absurd rfl hf
  | m8 =>
    rw [fetchSpecifier_m8 (by omega), nextByte_exhausted h.le]
    rfl
  | m16 =>
    have hshort : s.code.length < s.cur + 1 + 2 := by omega
    have hnone : s.cur + 1 + 1 ≠ s.code.length := by omega
    rw [fetchSpecifier_m16 (by omega), nextWord_exhausted hshort, wordFetchFailed, if_neg hnone]
    rfl

/-- With one of two displacement bytes, the failed word fetch leaves the cursor before that byte or behind it (R43). -/
theorem fetchSpecifier_half_displacement {s : State} (h : s.code.length = s.cur + 2) :
    ∃ u, fetchSpecifier .m16 s = .error u ∧ (u.cur = s.cur + 1 ∨ u.cur = s.cur + 2) := by
  have hshort : s.code.length < s.cur + 1 + 2 := by omega
  rw [fetchSpecifier_m16 (by omega), nextWord_exhausted hshort, wordFetchFailed, if_pos h.symm]
  refine ⟨_, rfl, ?_⟩
  cases Config.freeConsumed s.fresh
  · exact .inl rfl
  · exact .inr rfl

/-! ### The command -/

/-- A `decode` whose specifier is cut short raises `StreamExhausted`, unresolved, with the cursor where the fetches stopped
(40_decode.md R97). -/
theorem decode_exhausted {s u : State} {f : Format} (hg : Good s)
    (hd : decodeSpecifier s.upcoming = .error (.truncated f)) (hu : fetchSpecifier f s = .error u) :
    ∃ t, exec .decode s = .next t ∧ Raised .streamExhausted none s t ∧ t.resolution = .unresolved ∧ t.cur = u.cur := by
  obtain ⟨u', hu', hfail⟩ := fetchSpecifier_error (upcoming_truncated hd)
  obtain rfl : u = u' := by rw [hu] at hu'; cases hu'; rfl
  have hfault : u.fault = none := by rw [hfail.eq]; exact hg
  have hscript : u.script = s.script := by rw [hfail.eq]
  refine ⟨takeError .streamExhausted none .unresolved u, ?_, ⟨rfl, ?_, ?_⟩, rfl, takeError_cur _ _ _ _⟩
  · simp only [exec, execDecode, whenNoFault_good hg, hd, execTruncated, specifier, hu]
  · rw [takeError_fault, hfault, Option.getD_none]
  · rw [takeError_script, hscript]

/-- Settles O25: at each of the three lengths the specifier is cut short, and its fetches stop where the clause says. -/
theorem decodeTrapsAtTheEndOfTheStream : Obligations.DecodeTrapsAtTheEndOfTheStream := by
  unfold Obligations.DecodeTrapsAtTheEndOfTheStream
  intro s hg
  refine ⟨fun hlen => ?_, fun b hb => ⟨fun hlen hf => ?_, fun hlen hf => ?_⟩⟩
  · have hd : decodeSpecifier s.upcoming = .error (.truncated .m0) := by rw [upcoming_eq_nil hlen]; rfl
    exact decode_exhausted hg hd (fetchSpecifier_at_end hlen)
  · have hpos : 0 < (formatOf (muxOf b) (memIndexOf b)).dispBytes := by
      cases h : formatOf (muxOf b) (memIndexOf b)
      · exact absurd h hf
      · decide
      · decide
    exact decode_exhausted hg (upcoming_short hb (by omega)) (fetchSpecifier_mode_byte_alone hlen hf)
  · have hd := upcoming_short hb (by rw [hf, Format.dispBytes]; omega)
    obtain ⟨u, hu, hcur⟩ := fetchSpecifier_half_displacement hlen
    obtain ⟨t, ht, hraised, hres, htcur⟩ := decode_exhausted hg hd (by rw [hf]; exact hu)
    exact ⟨t, ht, hraised, hres, by rwa [htcur]⟩

end Sys2Proof.Proofs.StreamEnd

namespace Sys2Proof.Proofs.MemoryBus

/-! The accessors of a memory operand at the bus: the accesses that it accepts and those that it rejects (20_memory.md R46 to
R49, 60_exceptions.md R172). -/

open Sys2Proof Sys2Proof.Machine

/-! ### What the bus does -/

/-- A word access is rejected where one of its two bytes is (20_memory.md R47, R49). -/
theorem wordValid_eq_false_iff {s : State} {pa : PhysAddr} {kind : AccessKind} :
    s.wordValid pa kind = false ↔ s.addrValid pa kind = false ∨ s.addrValid (pa + 1) kind = false :=
  Bool.and_eq_false_iff

/-- A word access is accepted where both its bytes are. -/
theorem wordValid_eq_true_iff {s : State} {pa : PhysAddr} {kind : AccessKind} :
    s.wordValid pa kind = true ↔ s.addrValid pa kind = true ∧ s.addrValid (pa + 1) kind = true :=
  Bool.and_eq_true_iff

theorem memRead8_rejected {s : State} {pa : PhysAddr} (h : s.addrValid pa .read = false) : memRead8 pa s = none := by
  simp [memRead8, h]

theorem memRead16_rejected {s : State} {pa : PhysAddr} (h : s.wordValid pa .read = false) : memRead16 pa s = none := by
  simp [memRead16, h]

theorem memWrite8_accepted {s : State} {pa : PhysAddr} (v : Byte) (h : s.addrValid pa .write = true) :
    memWrite8 pa v s = .ok (s.setByteAt pa v) := by
  simp [memWrite8, h]

theorem memWrite8_rejected {s : State} {pa : PhysAddr} (v : Byte) (h : s.addrValid pa .write = false) :
    memWrite8 pa v s = .error s := by
  simp [memWrite8, h]

theorem memWrite16_accepted {s : State} {pa : PhysAddr} (v : Word) (h : s.wordValid pa .write = true) :
    memWrite16 pa v s = .ok (s.setWordAt pa v) := by
  simp [memWrite16, h]

theorem memWrite16_rejected {s : State} {pa : PhysAddr} (v : Word) (h : s.wordValid pa .write = false) :
    memWrite16 pa v s = .error { s.setWordAt pa (Config.freeWord s.fresh) with fresh := s.fresh + 1 } := by
  simp [memWrite16, h]

/-- A word store leaves every byte but its own two, in every memory. -/
theorem read_setWordAt_other (s : State) {pa : PhysAddr} (v : Word) {a : Nat} (hlo : a ≠ pa.toNat)
    (hhi : a ≠ (highByteAt pa).toNat) : (s.setWordAt pa v).mem.read a = s.mem.read a := by
  rw [setWordAt_mem, Memory.read_write_other _ hhi, Memory.read_write_other _ hlo]

/-- The rejected access is an error raised with all but the fault register kept (60_exceptions.md R172, R180). -/
theorem memoryAccessError_eq {s : State} (pa : PhysAddr) (hg : Good s) :
    memoryAccessError pa s =
      { s with
        fault := some .memoryAccessError
        response := some (.error .memoryAccessError (some pa.toNat))
        script := s.script.tail } := by
  rw [memoryAccessError, takeError, hg]
  rfl

/-! ### What the accessors of a memory operand do -/

section

variable {s : State} {f : Fields} {seg : SegIndex} {off : Word} {pa : PhysAddr}

theorem exec_getMem8_rejected (hg : Good s) (hm : s.resolution = .memory f seg off pa)
    (h : s.addrValid pa .read = false) : exec .getMem8 s = .next (memoryAccessError pa s) := by
  rw [exec, execGetMem8, whenResolvedMem_memory _ _ hg hm, memRead8_rejected h]

theorem exec_getMem16_rejected (hg : Good s) (hm : s.resolution = .memory f seg off pa)
    (h : s.wordValid pa .read = false) : exec .getMem16 s = .next (memoryAccessError pa s) := by
  rw [exec, execGetMem16, whenResolvedMem_memory _ _ hg hm, memRead16_rejected h]

theorem exec_setMem8_accepted (v : Byte) (hg : Good s) (hm : s.resolution = .memory f seg off pa)
    (h : s.addrValid pa .write = true) : exec (.setMem8 v) s = .next (respond .ok (s.setByteAt pa v)) := by
  rw [exec, execSetMem8, whenResolvedMem_memory _ _ hg hm, memWrite8_accepted v h]

theorem exec_setMem8_rejected (v : Byte) (hg : Good s) (hm : s.resolution = .memory f seg off pa)
    (h : s.addrValid pa .write = false) : exec (.setMem8 v) s = .next (memoryAccessError pa s) := by
  rw [exec, execSetMem8, whenResolvedMem_memory _ _ hg hm, memWrite8_rejected v h]

theorem exec_setMem16_accepted (v : Word) (hg : Good s) (hm : s.resolution = .memory f seg off pa)
    (h : s.wordValid pa .write = true) : exec (.setMem16 v) s = .next (respond .ok (s.setWordAt pa v)) := by
  rw [exec, execSetMem16, whenResolvedMem_memory _ _ hg hm, memWrite16_accepted v h]

/-- The rejected word write leaves free bytes at its two addresses (20_memory.md R49, U4). -/
theorem exec_setMem16_rejected (v : Word) (hg : Good s) (hm : s.resolution = .memory f seg off pa)
    (h : s.wordValid pa .write = false) :
    exec (.setMem16 v) s =
      .next (memoryAccessError pa { s.setWordAt pa (Config.freeWord s.fresh) with fresh := s.fresh + 1 }) := by
  rw [exec, execSetMem16, whenResolvedMem_memory _ _ hg hm, memWrite16_rejected v h]

end

/-! ### The statements -/

/-- Settles O41: the error keeps all that the free word store left, and that store keeps every byte but its two. -/
theorem rejectedWordWriteChangesAtMostItsBytes : Obligations.RejectedWordWriteChangesAtMostItsBytes := by
  unfold Obligations.RejectedWordWriteChangesAtMostItsBytes
  intro s f seg off pa v hg hm hrejected
  refine ⟨_, exec_setMem16_rejected v hg hm (wordValid_eq_false_iff.mpr hrejected), ?_⟩
  rw [memoryAccessError_eq pa (by exact hg)]
  refine ⟨⟨rfl, rfl, rfl⟩, rfl, rfl, rfl, rfl, rfl, fun a hlo hhi => ?_⟩
  rw [← highByteAt_toNat] at hhi
  exact read_setWordAt_other s _ hlo hhi

/-- Settles O42: the accepted store writes one byte, which canonical memory reads back. -/
theorem byteStoreChangesOneByte : Obligations.ByteStoreChangesOneByte := by
  unfold Obligations.ByteStoreChangesOneByte
  intro s f seg off pa v hwf hg hm haccepted
  exact ⟨_, exec_setMem8_accepted v hg hm haccepted, Memory.read_write_same v hwf,
    fun a ha => Memory.read_write_other v ha s.mem⟩

/-- Settles O43: the two addresses of the accepted store differ, at the top of memory too, so each keeps its own byte. -/
theorem wordStoreIsLittleEndian : Obligations.WordStoreIsLittleEndian := by
  unfold Obligations.WordStoreIsLittleEndian
  intro s f seg off pa v hwf hg hm hlow hhigh
  refine ⟨_, exec_setMem16_accepted v hg hm (wordValid_eq_true_iff.mpr ⟨hlow, hhigh⟩), ?_⟩
  rw [← highByteAt_toNat, respond_mem]
  refine ⟨?_, ?_, fun a hlo hhi => read_setWordAt_other s v hlo hhi⟩
  · rw [read_setWordAt hwf, if_neg (highByteAt_ne pa).symm, if_pos rfl]
  · rw [read_setWordAt hwf, if_pos rfl]

/-- Settles O40, by the three accessors: each rejected access is the memory error, which changes nothing else. -/
theorem rejectedAccessesTrap : Obligations.RejectedAccessesTrap := by
  unfold Obligations.RejectedAccessesTrap
  intro i s f seg off pa hg hm hrejected
  rw [← memoryAccessError_eq pa hg]
  rcases hrejected with ⟨rfl, h⟩ | ⟨rfl, h⟩ | ⟨⟨v, rfl⟩, h⟩
  · exact exec_getMem8_rejected hg hm h
  · exact exec_getMem16_rejected hg hm (wordValid_eq_false_iff.mpr h)
  · exact exec_setMem8_rejected v hg hm h

end Sys2Proof.Proofs.MemoryBus

namespace Sys2Proof.Proofs.Encoding

/-! The decoder and the encoder are inverse (30_encoding.md R60 to R72): what one mode byte with its displacement spells, the bytes
of a specifier from that, and the requests of the command port. -/

open Sys2Proof Sys2Proof.Machine Sys2Proof.Proofs.Effects Sys2Proof.Proofs.StreamEnd

/-! ### What a specifier spells -/

/-- A mode byte with its displacement bytes stands for a form, in both directions and whatever bytes follow: the form is encoded as
these bytes, and they decode to it. -/
structure Spells (b : Byte) (disp : List Byte) (i : Instr) : Prop where
  encode : encode i = .specifier (b :: disp)
  decode : ∀ rest, decodeSpecifier (b :: (disp ++ rest)) = .ok (i, rest)

/-- Only a form stands for bytes. -/
theorem Spells.isForm {b : Byte} {disp : List Byte} {i : Instr} (h : Spells b disp i) : i.isForm = true := by
  rw [Instr.isForm, h.encode]

theorem Spells.encodeSpecifier {b : Byte} {disp : List Byte} {i : Instr} (h : Spells b disp i) :
    encodeSpecifier i = b :: disp := by
  rw [Sys2Proof.encodeSpecifier, h.encode]

/-- A row of the table of R67: the form's encoding, and that the bits of `mux` and `memIndex` select it. -/
theorem Spells.of_select {m : BitVec 2} {r x : BitVec 3} {disp : List Byte} {i : Instr}
    (he : Sys2Proof.encode i = .specifier (modeByte m r x :: disp))
    (hs : ∀ rest, selectForm (m.getLsbD 1) (m.getLsbD 0) (x.getLsbD 2) (x.getLsbD 1) (x.getLsbD 0) r (disp ++ rest) =
      .ok (i, rest)) : Spells (modeByte m r x) disp i :=
  ⟨he, fun rest => (decodeSpecifier_modeByte m r x _).trans (hs rest)⟩

/-- The displacement word of a form comes back from its two bytes (30_encoding.md R64). -/
theorem takeWord_wordBytes (form : Word → Instr) (v : Word) (rest : List Byte) :
    takeWord form (wordBytes v ++ rest) = .ok (form v, rest) := by
  simp [wordBytes, takeWord]

/-- Any two bytes are the bytes of a word. -/
theorem exists_eq_wordBytes {bytes : List Byte} (h : bytes.length = 2) : ∃ v, bytes = wordBytes v := by
  obtain ⟨lo, hi, rfl⟩ := List.length_eq_two.mp h
  exact ⟨hi ++ lo, by rw [wordBytes, lowByte_append, highByte_append]⟩

/-- Every form is spelled by its mode byte and its displacement: none, one byte, or the two bytes of a word (30_encoding.md R67). -/
theorem exists_spells_of_isForm {i : Instr} (h : i.isForm = true) : ∃ b disp, Spells b disp i := by
  cases i with
  | bxSi | bxDi | bpSi | bpDi | si | di | bx | reg0 | reg1 | reg2 | reg3 | reg4 | reg5 | reg6 | reg7
  | bxSiD8 | bxDiD8 | bpSiD8 | bpDiD8 | siD8 | diD8 | bpD8 | bxD8 => exact ⟨_, _, .of_select rfl fun _ => rfl⟩
  | d16 _ v | bxSiD16 _ v | bxDiD16 _ v | bpSiD16 _ v | bpDiD16 _ v | siD16 _ v | diD16 _ v | bpD16 _ v | bxD16 _ v =>
    exact ⟨_, _, .of_select rfl (takeWord_wordBytes _ v)⟩
  | decode | armOverride | clearOverride | getReg8 | getReg16 | setReg8 | setReg16 | getSeg | setSeg | getMem8 | getMem16
  | setMem8 | setMem16 | reset => cases h

/-- Whatever the five selecting bits are, a displacement of the length that they ask for completes a form: by the two bits of `mux`,
as R65 counts the bytes. -/
theorem exists_spells_of_bits {m1 m0 x2 x1 x0 : Bool} (r : BitVec 3) {disp : List Byte}
    (h : disp.length = (formatOf (BitVec.ofBool m1 ++ BitVec.ofBool m0)
      (BitVec.ofBool x2 ++ BitVec.ofBool x1 ++ BitVec.ofBool x0)).dispBytes) :
    ∃ i, Spells (modeByte (BitVec.ofBool m1 ++ BitVec.ofBool m0) r
      (BitVec.ofBool x2 ++ BitVec.ofBool x1 ++ BitVec.ofBool x0)) disp i := by
  cases m1 <;> cases m0
  case false.false =>
    cases x2 <;> cases x1 <;> cases x0
    case true.true.false =>
      obtain ⟨v, rfl⟩ := exists_eq_wordBytes h
      exact ⟨_, .of_select (by rfl) (takeWord_wordBytes _ v)⟩
    all_goals
      obtain rfl := List.length_eq_zero_iff.mp h
      exact ⟨_, .of_select (by rfl) fun _ => rfl⟩
  case false.true =>
    obtain ⟨d, rfl⟩ := List.length_eq_one_iff.mp h
    cases x2 <;> cases x1 <;> cases x0 <;> exact ⟨_, .of_select (by rfl) fun _ => rfl⟩
  case true.false =>
    obtain ⟨v, rfl⟩ := exists_eq_wordBytes h
    cases x2 <;> cases x1 <;> cases x0 <;> exact ⟨_, .of_select (by rfl) (takeWord_wordBytes _ v)⟩
  case true.true =>
    obtain rfl := List.length_eq_zero_iff.mp h
    cases x2 <;> cases x1 <;> cases x0 <;> exact ⟨_, .of_select (by rfl) fun _ => rfl⟩

/-- Every mode byte with the displacement it asks for spells a form: there are no reserved encodings (30_encoding.md R69). -/
theorem exists_spells (b : Byte) {disp : List Byte}
    (h : disp.length = (formatOf (muxOf b) (memIndexOf b)).dispBytes) : ∃ i, Spells b disp i := by
  rw [muxOf_bits, memIndexOf_bits] at h
  have hs := exists_spells_of_bits (regIndexOf b) h
  rwa [← muxOf_bits, ← memIndexOf_bits, modeByte_fields] at hs

/-- A mode byte with enough bytes behind it takes its displacement from them and leaves the others. -/
theorem decodeSpecifier_enough {b : Byte} {rest : List Byte}
    (h : (formatOf (muxOf b) (memIndexOf b)).dispBytes ≤ rest.length) :
    ∃ i, Spells b (rest.take (formatOf (muxOf b) (memIndexOf b)).dispBytes) i ∧
      decodeSpecifier (b :: rest) = .ok (i, rest.drop (formatOf (muxOf b) (memIndexOf b)).dispBytes) := by
  obtain ⟨i, hi⟩ := exists_spells b (List.length_take_of_le h)
  refine ⟨i, hi, ?_⟩
  have hd := hi.decode (rest.drop (formatOf (muxOf b) (memIndexOf b)).dispBytes)
  rwa [List.take_append_drop] at hd

/-! ### The statements about specifiers -/

/-- Settles O7: the bytes of every form spell it. -/
theorem specifierRoundTrip : Obligations.SpecifierRoundTrip := by
  unfold Obligations.SpecifierRoundTrip
  intro i rest hi
  obtain ⟨b, disp, h⟩ := exists_spells_of_isForm hi
  rw [h.encodeSpecifier]
  exact h.decode rest

/-- Settles O9: bytes that decode hold the whole displacement, and with it the mode byte spells the form they decode to. -/
theorem decodedSpecifierIsItsEncoding : Obligations.DecodedSpecifierIsItsEncoding := by
  unfold Obligations.DecodedSpecifierIsItsEncoding
  intro bytes rest i h
  cases bytes with
  | nil => cases h
  | cons b tail =>
    rcases Nat.lt_or_ge tail.length (formatOf (muxOf b) (memIndexOf b)).dispBytes with hlt | hge
    · rw [decodeSpecifier_short hlt] at h
      cases h
    · obtain ⟨j, hj, hd⟩ := decodeSpecifier_enough hge
      rw [hd] at h
      cases h
      exact ⟨hj.isForm, by rw [hj.encodeSpecifier, List.cons_append, List.take_append_drop]⟩

/-- Settles O10: two bytes are enough for every format. -/
theorem everyModeByteIsLegal : Obligations.EveryModeByteIsLegal := by
  unfold Obligations.EveryModeByteIsLegal
  intro b d1 d2 rest
  have henough : (formatOf (muxOf b) (memIndexOf b)).dispBytes ≤ (d1 :: d2 :: rest).length :=
    (dispBytes_le_two _).trans (by simp)
  obtain ⟨i, hi, hd⟩ := decodeSpecifier_enough henough
  exact ⟨i, hi.isForm, hd⟩

section

open Sys2Proof.Laws.SpecifierLength

/-- The family `SpecifierLength` put together: one lemma per constructor, in their order. -/
theorem specifierLength (i : Instr) : Statement i :=
  Instr.casesOn i bxSi bxDi bpSi bpDi si di d16 bx bxSiD8 bxDiD8 bpSiD8 bpDiD8 siD8 diD8 bpD8 bxD8 bxSiD16 bxDiD16 bpSiD16
    bpDiD16 siD16 diD16 bpD16 bxD16 reg0 reg1 reg2 reg3 reg4 reg5 reg6 reg7 decode armOverride clearOverride getReg8
    getReg16 setReg8 setReg16 getSeg setSeg getMem8 getMem16 setMem8 setMem16 reset

end

/-- The displacement bytes that `mux` and `memIndex` call for, as R65 counts them. -/
theorem formatOf_dispBytes (m : BitVec 2) (x : BitVec 3) :
    (formatOf m x).dispBytes = if m = 2 then 2 else if m = 0 ∧ x = 6 then 2 else if m = 1 then 1 else 0 := by
  revert m x
  decide

/-- Settles O11, by the lengths of the forms one by one and R65's count. -/
theorem lengthIsAFunctionOfTheModeByte : Obligations.LengthIsAFunctionOfTheModeByte := by
  unfold Obligations.LengthIsAFunctionOfTheModeByte
  intro i hi
  have hlen := specifierLength i
  rw [Laws.SpecifierLength.Statement, if_pos hi] at hlen
  obtain ⟨b, disp, he, hl⟩ := hlen
  exact ⟨b, disp, he, hl.trans (formatOf_dispBytes _ _)⟩

/-! ### The command port -/

/-- A number that fits comes back from the argument word (log entry 4). -/
theorem toNat_argumentWord {n : Nat} (h : n < 65536) : (BitVec.ofNat 16 n).toNat = n := by
  rw [BitVec.toNat_ofNat, Nat.mod_eq_of_lt h]

/-- An 8-bit argument comes back from the low byte of the argument word (log entry 4). -/
theorem setWidth_argumentByte (v : Byte) : (v.setWidth 16).setWidth 8 = v := by
  rw [BitVec.setWidth_setWidth_of_le v (by decide), BitVec.setWidth_eq]

/-- Settles O8, command by command: an index that fits and a byte come back from the argument word, the other arguments are that
word. -/
theorem commandRoundTrip : Obligations.CommandRoundTrip := by
  unfold Obligations.CommandRoundTrip
  intro i hform hwf
  cases i with
  | armOverride n =>
    exact congrArg (fun index => Except.ok (Instr.armOverride index, [])) (toNat_argumentWord (of_decide_eq_true hwf))
  | setReg8 v => exact congrArg (fun byte => Except.ok (Instr.setReg8 byte, [])) (setWidth_argumentByte v)
  | setMem8 v => exact congrArg (fun byte => Except.ok (Instr.setMem8 byte, [])) (setWidth_argumentByte v)
  | decode | clearOverride | getReg8 | getReg16 | setReg16 | getSeg | setSeg | getMem8 | getMem16 | setMem16 | reset => rfl
  | bxSi | bxDi | bpSi | bpDi | si | di | d16 | bx | bxSiD8 | bxDiD8 | bpSiD8 | bpDiD8 | siD8 | diD8 | bpD8 | bxD8
  | bxSiD16 | bxDiD16 | bpSiD16 | bpDiD16 | siD16 | diD16 | bpD16 | bxD16 | reg0 | reg1 | reg2 | reg3 | reg4 | reg5
  | reg6 | reg7 => cases hform

/-- The codes 0xE and 0xF spell no command, whatever the argument word (30_encoding.md R72). -/
theorem decodeCommand_unassigned {code : BitVec 4} (arg : Word) (h : code = 14 ∨ code = 15) :
    decodeCommand code arg = .error (.unassignedCode code) := by
  rcases h with rfl | rfl <;> rfl

/-- Settles O3: the step raises, and an error raised leaves every collaborator. -/
theorem unassignedCodesRaiseProtocolViolation : Obligations.UnassignedCodesRaiseProtocolViolation := by
  unfold Obligations.UnassignedCodesRaiseProtocolViolation
  intro s code arg rest hscript hcode hg
  have hstep : step s = .next (takeError .protocolViolation none .unspecified s) := by
    simp only [step, hscript, decodeCommand_unassigned arg hcode, execUnassignedCode, whenNoFault_good hg]
  refine ⟨_, hstep, ⟨takeError_response s _ _ _, ?_, takeError_script s _ _ _⟩, (Declined.raised _ _ _).sameCollaborators⟩
  rw [takeError_fault, hg, Option.getD_none]

/-- Settles O6: each sample decodes as written. -/
theorem sampleEncodingsDecode : Obligations.SampleEncodingsDecode := by
  unfold Obligations.SampleEncodingsDecode
  exact ⟨rfl, rfl, rfl, rfl, rfl, rfl, rfl, rfl⟩

end Sys2Proof.Proofs.Encoding

namespace Sys2Proof.Proofs.AssembledForms

/-! The 32 forms said once, in the terms of `mux` and `memIndex` (40_decode.md section 9): which operand a form resolves, from which
displacement, and what its fetches take from the stream. -/

open Sys2Proof Sys2Proof.Machine Sys2Proof.Proofs.Effects Sys2Proof.Proofs.StreamEnd Sys2Proof.Proofs.Encoding

/-! ### What a form resolves -/

/-- The 16-bit displacement that displacement bytes stand for: none, one byte sign-extended, or the two bytes of a word, the low one
first (40_decode.md R85, R86). -/
def dispWord : List Byte → Word
  | [] => 0
  | [d] => signExtend8 d
  | lo :: hi :: _ => hi ++ lo

theorem add_dispWord_nil (base : Word) : base + dispWord [] = base := BitVec.add_zero base

theorem dispWord_wordBytes (v : Word) : dispWord (wordBytes v) = v := word_of_wordBytes v

/-- The operand that the fields of a mode byte and a displacement resolve to (40_decode.md R83, R87 to R93). -/
def resolveOperand (f : Fields) (disp : Word) (s : State) : State :=
  if f.mux = 3 then resolveRegister f s
  else resolveMemory f (defaultSeg f.mux f.memIndex) (fun s => baseSum f.mux f.memIndex s + disp) s

theorem resolveOperand_register {f : Fields} (h : f.mux = 3) (disp : Word) :
    resolveOperand f disp = resolveRegister f := funext fun _ => if_pos h

theorem resolveOperand_memory {f : Fields} (h : f.mux ≠ 3) (disp : Word) :
    resolveOperand f disp =
      resolveMemory f (defaultSeg f.mux f.memIndex) (fun s => baseSum f.mux f.memIndex s + disp) :=
  funext fun _ => if_neg h

/-- The `decode` that a mode byte and its displacement bytes describe. -/
def describedDecode (b : Byte) (disp : List Byte) : State → Out :=
  specifier (formatOf (muxOf b) (memIndexOf b)) (resolveOperand (fieldsOf b) (dispWord disp))

/-- A register-direct row of the table of R67. -/
theorem describedDecode_register (r x : BitVec 3) (disp : List Byte) :
    describedDecode (modeByte 3 r x) disp = specifier .m0 (resolveRegister ⟨3, r, x⟩) := by
  rw [describedDecode, fieldsOf, muxOf_modeByte, regIndexOf_modeByte, memIndexOf_modeByte, resolveOperand_register rfl]
  rfl

/-- A memory row of the table of R67: its format, its default segment and its offset are those of `mux` and `memIndex`. -/
theorem describedDecode_memory {m : BitVec 2} (hm : m ≠ 3) (r x : BitVec 3) (disp : List Byte) :
    describedDecode (modeByte m r x) disp = specifier (formatOf m x)
      (resolveMemory ⟨m, r, x⟩ (defaultSeg m x) fun s => baseSum m x s + dispWord disp) := by
  rw [describedDecode, fieldsOf, muxOf_modeByte, regIndexOf_modeByte, memIndexOf_modeByte, resolveOperand_memory hm]

/-- A form is the `decode` that its own encoding describes. -/
theorem exec_eq_describedDecode {i : Instr} {b : Byte} {disp : List Byte} (h : encode i = .specifier (b :: disp)) :
    exec i = describedDecode b disp := by
  have mux0 : (0 : BitVec 2) ≠ 3 := by decide
  have mux1 : (1 : BitVec 2) ≠ 3 := by decide
  have mux2 : (2 : BitVec 2) ≠ 3 := by decide
  cases i with
  | bxSi | bxDi | bpSi | bpDi | si | di | bx =>
    cases h
    simp only [describedDecode_memory mux0, add_dispWord_nil]
    rfl
  | d16 r v =>
    cases h
    simp only [describedDecode_memory mux0, dispWord_wordBytes]
    exact congrArg (fun off => specifier .m16 (resolveMemory ⟨0, r, 6⟩ Config.segData fun _ => off)) (BitVec.zero_add v).symm
  | bxSiD8 | bxDiD8 | bpSiD8 | bpDiD8 | siD8 | diD8 | bpD8 | bxD8 =>
    cases h
    rw [describedDecode_memory mux1]
    rfl
  | bxSiD16 | bxDiD16 | bpSiD16 | bpDiD16 | siD16 | diD16 | bpD16 | bxD16 =>
    cases h
    simp only [describedDecode_memory mux2, dispWord_wordBytes]
    rfl
  | reg0 | reg1 | reg2 | reg3 | reg4 | reg5 | reg6 | reg7 =>
    cases h
    rw [describedDecode_register]
    rfl
  | decode | armOverride | clearOverride | getReg8 | getReg16 | setReg8 | setReg16 | getSeg | setSeg | getMem8 | getMem16
  | setMem8 | setMem16 | reset => cases h

/-! ### What the displacement fetch takes from the stream -/

/-- The displacement bytes of a format behind the mode byte at the cursor, as many of them as the stream holds. -/
def dispBytesAt (f : Format) (s : State) : List Byte := (s.code.drop (s.cur + 1)).take f.dispBytes

theorem dispBytesAt_m8 {s : State} {d : Byte} (hd : s.code[s.cur + 1]? = some d) : dispBytesAt .m8 s = [d] := by
  obtain ⟨hlt, rfl⟩ := List.getElem?_eq_some_iff.mp hd
  rw [dispBytesAt, List.drop_eq_getElem_cons hlt]
  rfl

theorem dispBytesAt_m16 {s : State} {lo hi : Byte} (hlo : s.code[s.cur + 1]? = some lo)
    (hhi : s.code[s.cur + 2]? = some hi) : dispBytesAt .m16 s = [lo, hi] := by
  obtain ⟨hlt, rfl⟩ := List.getElem?_eq_some_iff.mp hlo
  obtain ⟨hlt', rfl⟩ := List.getElem?_eq_some_iff.mp hhi
  rw [dispBytesAt, List.drop_eq_getElem_cons hlt, List.drop_eq_getElem_cons hlt']
  rfl

/-- The displacement fetch by format: nothing, a byte to be sign-extended, or a word (40_decode.md R84 to R86). -/
def fetchFormat : Format → State → Except State (Word × State)
  | .m0, s => .ok (0, s)
  | .m8, s => (nextByte s).map fun p => (signExtend8 p.1, p.2)
  | .m16, s => nextWord s

/-- A `mux` that selects memory is 0, 1 or 2 (40_decode.md R83). -/
theorem mux_cases {m : BitVec 2} (h : m ≠ 3) : m = 0 ∨ m = 1 ∨ m = 2 := by revert m; decide

/-- On the memory path the displacement fetch goes by the format alone (30_encoding.md R65). -/
theorem fetchDisplacement_eq_fetchFormat {f : Fields} (h : f.mux ≠ 3) (s : State) :
    fetchDisplacement f s = fetchFormat (formatOf f.mux f.memIndex) s := by
  obtain ⟨m, r, x⟩ := f
  rcases mux_cases h with rfl | rfl | rfl
  · by_cases hx : x = 6
    · subst hx
      rfl
    · have hformat : formatOf 0 x = .m0 := by rw [formatOf, if_neg (by decide), if_neg (by simpa using hx), if_neg (by decide)]
      rw [hformat, fetchDisplacement, if_neg (show (0 : BitVec 2) ≠ 1 by decide), if_neg (by simpa using hx)]
      rfl
  · rfl
  · rfl

/-- The fetches of a specifier are the mode byte's and then the displacement's. -/
theorem fetchSpecifier_eq_fetchFormat {f : Format} {s : State} {b : Byte} (hb : s.code[s.cur]? = some b) :
    fetchSpecifier f s = (fetchFormat f { s with cur := s.cur + 1 }).map Prod.snd := by
  rw [fetchSpecifier, nextByte_ok hb]
  cases f with
  | m0 => rfl
  | m8 =>
    show (nextByte _).map Prod.snd = ((nextByte _).map _).map Prod.snd
    cases nextByte { s with cur := s.cur + 1 } <;> rfl
  | m16 => rfl

/-- A fetch whose result is mapped fails as the fetch does. -/
theorem error_of_map_error {α β : Type} {g : α → β} {x : Except State α} {u : State} (h : x.map g = .error u) :
    x = .error u := by
  cases x with
  | error v => cases h; rfl
  | ok a => cases h

/-- Where the stream holds the specifier, the displacement fetch takes exactly its displacement bytes. -/
theorem fetchFormat_ok {f : Format} {s : State} (h : s.cur + 1 + f.dispBytes ≤ s.code.length) :
    fetchFormat f { s with cur := s.cur + 1 } = .ok (dispWord (dispBytesAt f s), { s with cur := s.cur + 1 + f.dispBytes }) := by
  cases f with
  | m0 => rfl
  | m8 =>
    have hd : s.code[s.cur + 1]? = some _ := List.getElem?_eq_getElem h
    rw [dispBytesAt_m8 hd, fetchFormat, nextByte_ok hd]
    rfl
  | m16 =>
    have hlo : s.code[s.cur + 1]? = some _ := List.getElem?_eq_getElem (by rw [Format.dispBytes] at h; omega)
    have hhi : s.code[s.cur + 2]? = some _ := List.getElem?_eq_getElem h
    rw [dispBytesAt_m16 hlo hhi, fetchFormat, nextWord_ok hlo hhi]
    rfl

/-! ### The three outcomes of the command `decode` -/

/-- A `decode` while faulted is refused (60_exceptions.md R176 (e)). -/
theorem exec_decode_faulted {s : State} {k : ErrorKind} (hf : s.fault = some k) : exec .decode s = .next (refuse k s) := by
  simp only [exec, execDecode, whenNoFault_faulted hf]

/-- The stream from the cursor on, mode byte first. -/
theorem upcoming_eq_cons {s : State} {b : Byte} (hb : s.code[s.cur]? = some b) :
    s.upcoming = b :: s.code.drop (s.cur + 1) := by
  obtain ⟨hlt, rfl⟩ := List.getElem?_eq_some_iff.mp hb
  exact List.drop_eq_getElem_cons hlt

/-- A `decode` that finds its specifier whole resolves the operand that the mode byte and its displacement bytes describe. -/
theorem exec_decode_ok {s : State} {b : Byte} {f : Format} (hg : Good s) (hb : s.code[s.cur]? = some b)
    (hf : formatOf (muxOf b) (memIndexOf b) = f) (hlen : s.cur + 1 + f.dispBytes ≤ s.code.length) :
    exec .decode s = .next (respond .ok
      (resolveOperand (fieldsOf b) (dispWord (dispBytesAt f s)) { s with cur := s.cur + 1 + f.dispBytes })) := by
  subst hf
  have henough : (formatOf (muxOf b) (memIndexOf b)).dispBytes ≤ (s.code.drop (s.cur + 1)).length := by
    rw [List.length_drop]; omega
  obtain ⟨i, hi, hd⟩ := decodeSpecifier_enough henough
  calc exec .decode s
      = runForm i s := by simp only [exec, execDecode, whenNoFault_good hg, upcoming_eq_cons hb, hd]
    _ = describedDecode b (dispBytesAt _ s) s := by rw [runForm_eq_exec i s hi.isForm, exec_eq_describedDecode hi.encode]; rfl
    _ = _ := specifier_ok hg hlen

/-- The stream does not hold the specifier at the cursor, and its fetches end in the state `u`: there is no mode byte, or fewer
displacement bytes than the mode byte asks for (40_decode.md R97). -/
inductive CutShort (s : State) : State → Prop where
  | noModeByte (h : s.code.length ≤ s.cur) : CutShort s s
  | displacement {b : Byte} {u : State} (hb : s.code[s.cur]? = some b)
      (hshort : s.code.length < s.cur + 1 + (formatOf (muxOf b) (memIndexOf b)).dispBytes)
      (hu : fetchSpecifier (formatOf (muxOf b) (memIndexOf b)) s = .error u) : CutShort s u

/-- A `decode` whose specifier is cut short fails as its last fetch does. -/
theorem exec_decode_cutShort {s u : State} (hg : Good s) (h : CutShort s u) : exec .decode s = .next (streamFailure u) := by
  have fails {f : Format} (hd : decodeSpecifier s.upcoming = .error (.truncated f)) (hu : fetchSpecifier f s = .error u) :
      exec .decode s = .next (streamFailure u) := by
    simp only [exec, execDecode, whenNoFault_good hg, hd, execTruncated, specifier, hu, streamFailure]
  cases h with
  | noModeByte h => exact fails (f := .m0) (by rw [upcoming_eq_nil h]; rfl) (fetchSpecifier_at_end h)
  | displacement hb hshort hu => exact fails (upcoming_short hb hshort) hu

/-- Everything a `decode` can do: be refused, resolve the operand at the cursor, or run out of stream. -/
theorem exec_decode_cases (s : State) :
    (∃ k, s.fault = some k ∧ exec .decode s = .next (refuse k s)) ∨
    (Good s ∧ ∃ b f, s.code[s.cur]? = some b ∧ formatOf (muxOf b) (memIndexOf b) = f ∧
      s.cur + 1 + f.dispBytes ≤ s.code.length ∧ exec .decode s = .next (respond .ok
        (resolveOperand (fieldsOf b) (dispWord (dispBytesAt f s)) { s with cur := s.cur + 1 + f.dispBytes }))) ∨
    (Good s ∧ ∃ u, CutShort s u ∧ exec .decode s = .next (streamFailure u)) := by
  rcases Option.eq_none_or_eq_some s.fault with hg | ⟨k, hf⟩
  · have short {u : State} (h : CutShort s u) : ∃ u, CutShort s u ∧ exec .decode s = .next (streamFailure u) :=
      ⟨u, h, exec_decode_cutShort hg h⟩
    rcases Option.eq_none_or_eq_some s.code[s.cur]? with hb | ⟨b, hb⟩
    · exact .inr (.inr ⟨hg, short (.noModeByte (List.getElem?_eq_none_iff.mp hb))⟩)
    · rcases Nat.lt_or_ge s.code.length (s.cur + 1 + (formatOf (muxOf b) (memIndexOf b)).dispBytes) with hl | hl
      · obtain ⟨u, hu, _⟩ := fetchSpecifier_error hl
        exact .inr (.inr ⟨hg, short (.displacement hb hl hu)⟩)
      · exact .inr (.inl ⟨hg, b, _, hb, rfl, hl, exec_decode_ok hg hb rfl hl⟩)
  · exact .inl ⟨k, hf, exec_decode_faulted hf⟩

end Sys2Proof.Proofs.AssembledForms

namespace Sys2Proof.Proofs.DecodeRules

/-! The statements of the family 40_decode.md about the operand that a `decode` resolves and about what it leaves. -/

open Sys2Proof Sys2Proof.Machine Sys2Proof.Proofs.Scope Sys2Proof.Proofs.Effects Sys2Proof.Proofs.StreamEnd
  Sys2Proof.Proofs.Encoding Sys2Proof.Proofs.AssembledForms

/-- The command `decode` runs the form that stands at the cursor: while faulted both are refused (40_decode.md R80 to R83). -/
theorem exec_decode_eq_exec_form {s : State} {i : Instr} {after : List Byte} (h : decodeSpecifier s.upcoming = .ok (i, after)) :
    exec .decode s = exec i s := by
  obtain ⟨hi, _⟩ := decodedSpecifierIsItsEncoding _ _ _ h
  rcases Option.eq_none_or_eq_some s.fault with hg | ⟨k, hf⟩
  · rw [← runForm_eq_exec i s hi]
    simp only [exec, execDecode, whenNoFault_good hg, h]
  · obtain ⟨f, resolve, he, _, _⟩ := exec_form i hi
    calc exec .decode s
        = .next (refuse k s) := exec_decode_faulted hf
      _ = exec i s := by rw [he, specifier, whenNoFault_faulted hf]

/-- Settles O2: the step serves `decode`, and `decode` runs the form. -/
theorem stepRunsTheSpecifierAtTheCursor : Obligations.StepRunsTheSpecifierAtTheCursor := by
  unfold Obligations.StepRunsTheSpecifierAtTheCursor
  intro s arg rest i after hscript hd
  rw [stepServesTheCommandAtThePort s 0 arg rest .decode hscript rfl]
  exact exec_decode_eq_exec_form hd

/-- Settles O17: a form fetches a specifier of its own length, and a fetch that fails leaves all but the cursor. -/
theorem formsTrapAtTheEndOfTheStream : Obligations.FormsTrapAtTheEndOfTheStream := by
  unfold Obligations.FormsTrapAtTheEndOfTheStream
  intro i s hi hg hshort
  obtain ⟨f, resolve, he, hlen, _⟩ := exec_form i hi
  obtain ⟨u, hu, _, hout⟩ := specifier_error (resolve := resolve) hg (f := f) (by omega)
  obtain ⟨hr16, hsreg, hmem, hcode, hrejects⟩ := fetchFailed_frame hu
  have hfault : u.fault = none := by rw [hu.eq]; exact hg
  have hscript : u.script = s.script := by rw [hu.eq]
  refine ⟨_, (he s).trans hout, ⟨rfl, by rw [takeError_fault, hfault, Option.getD_none], ?_⟩, rfl, ?_⟩
  · rw [takeError_script, hscript]
  · simp only [takeError_r16, takeError_sreg, takeError_mem, takeError_code, takeError_rejects]
    exact ⟨hr16, hsreg, hmem, hcode, hrejects⟩

/-! ### The assembled algorithm -/

/-- The memory path of the assembled algorithm ends as a memory form does (40_decode.md R87 to R92). -/
theorem finishMemory_eq {f : Fields} (h : f.mux ≠ 3) (disp : Word) (s : State) :
    finishMemory f disp s = respond .ok (resolveOperand f disp s) := by
  rw [resolveOperand_memory h]
  rfl

/-- The memory path of the assembled algorithm, from its displacement fetch on (40_decode.md R84 to R92). -/
def memoryPath (f : Fields) (s : State) : State :=
  match fetchDisplacement f s with
  | .error u => streamFailure u
  | .ok (disp, u) => finishMemory f disp u

/-- The assembled algorithm with a mode byte there: the two paths of R83. -/
theorem assembledDecode_modeByte {s : State} {b : Byte} (hg : Good s) (hb : s.code[s.cur]? = some b) :
    assembledDecode s =
      if muxOf b = 3 then respond .ok (resolveRegister (fieldsOf b) { s with cur := s.cur + 1 })
      else memoryPath (fieldsOf b) { s with cur := s.cur + 1 } := by
  simp only [assembledDecode, show s.fault = none from hg, nextByte_ok hb]
  rfl

/-- The assembled algorithm with the specifier whole. -/
theorem assembledDecode_ok {s : State} {b : Byte} {f : Format} (hg : Good s) (hb : s.code[s.cur]? = some b)
    (hf : formatOf (muxOf b) (memIndexOf b) = f) (hlen : s.cur + 1 + f.dispBytes ≤ s.code.length) :
    assembledDecode s = respond .ok
      (resolveOperand (fieldsOf b) (dispWord (dispBytesAt f s)) { s with cur := s.cur + 1 + f.dispBytes }) := by
  subst hf
  rw [assembledDecode_modeByte hg hb]
  by_cases hmux : muxOf b = 3
  · have hformat : formatOf (muxOf b) (memIndexOf b) = .m0 := by rw [hmux]; rfl
    rw [if_pos hmux, hformat, resolveOperand_register hmux]
    rfl
  · have hfetch : fetchDisplacement (fieldsOf b) { s with cur := s.cur + 1 } = .ok _ :=
      (fetchDisplacement_eq_fetchFormat hmux _).trans (fetchFormat_ok hlen)
    rw [if_neg hmux, memoryPath, hfetch]
    exact finishMemory_eq hmux _ _

/-- The assembled algorithm with the specifier cut short: without a displacement nothing is missing, and on the memory path the
displacement fetch is the one that fails. -/
theorem assembledDecode_cutShort {s u : State} (hg : Good s) (h : CutShort s u) : assembledDecode s = streamFailure u := by
  cases h with
  | noModeByte h => simp only [assembledDecode, show s.fault = none from hg, nextByte_exhausted h]
  | @displacement b _ hb hshort hu =>
    have hmux : muxOf b ≠ 3 := by
      intro hmux
      have hformat : formatOf (muxOf b) (memIndexOf b) = .m0 := by rw [hmux]; rfl
      have := (List.getElem?_eq_some_iff.mp hb).1
      rw [hformat, Format.dispBytes] at hshort
      omega
    rw [fetchSpecifier_eq_fetchFormat hb] at hu
    have hfetch : fetchDisplacement (fieldsOf b) { s with cur := s.cur + 1 } = .error u := by
      rw [fetchDisplacement_eq_fetchFormat hmux]
      exact error_of_map_error hu
    rw [assembledDecode_modeByte hg hb, if_neg hmux, memoryPath, hfetch]

/-- Settles O18, by the three outcomes of a `decode`. -/
theorem decodeIsTheAssembledAlgorithm : Obligations.DecodeIsTheAssembledAlgorithm := by
  unfold Obligations.DecodeIsTheAssembledAlgorithm
  intro s
  rcases exec_decode_cases s with ⟨k, hf, e⟩ | ⟨hg, b, f, hb, hformat, hlen, e⟩ | ⟨hg, u, hu, e⟩
  · rw [e, assembledDecode, hf]
  · rw [e, assembledDecode_ok hg hb hformat hlen]
  · rw [e, assembledDecode_cutShort hg hu]

/-! ### The completion of a decode -/

/-- Settles O19: what the fields and the displacement resolve to, by the class of operand that `mux` says. -/
theorem decodeCompletes : Obligations.DecodeCompletes := by
  unfold Obligations.DecodeCompletes
  intro s b hg hb hlen
  refine ⟨_, exec_decode_ok hg hb rfl hlen, rfl, ?_⟩
  by_cases hmux : muxOf b = 3
  · rw [resolveOperand_register hmux]
    exact ⟨hg, rfl, rfl, rfl, fun _ => rfl, fun h => absurd hmux h⟩
  · rw [resolveOperand_memory hmux]
    exact ⟨hg, rfl, rfl, rfl, fun h => absurd h hmux, fun _ => ⟨_, _, _, rfl⟩⟩

/-! ### The memory operand -/

/-- The latched segment, offset and address are those that the fields select in the state `s` before the `decode`, with the
displacement bytes behind its cursor (40_decode.md R87 to R92). -/
structure LatchedMemory (s : State) (f : Fields) (seg : SegIndex) (off : Word) (pa : PhysAddr) : Prop where
  memory : f.mux ≠ 3
  whole : s.cur + 1 + (formatOf f.mux f.memIndex).dispBytes ≤ s.code.length
  segment : seg = s.override.getD (defaultSeg f.mux f.memIndex)
  offset : off = baseSum f.mux f.memIndex s + dispWord (dispBytesAt (formatOf f.mux f.memIndex) s)
  address : pa = newAddress (s.seg seg) off

/-- A `decode` that answers `ok` and leaves a memory operand has latched what its specifier describes. -/
theorem decode_latchedMemory {s t : State} {f : Fields} {seg : SegIndex} {off : Word} {pa : PhysAddr} (hg : Good s)
    (h : exec .decode s = .next t) (hok : RespondedOk t) (hm : t.resolution = .memory f seg off pa) :
    LatchedMemory s f seg off pa := by
  rcases exec_decode_cases s with ⟨k, hf, _⟩ | ⟨_, b, _, hb, rfl, hlen, e⟩ | ⟨_, u, _, e⟩
  · rw [hg] at hf; cases hf
  · rw [e] at h
    cases h
    by_cases hmux : muxOf b = 3
    · rw [resolveOperand_register hmux] at hm
      cases hm
    · rw [resolveOperand_memory hmux] at hm
      cases hm
      exact ⟨hmux, hlen, rfl, rfl, rfl⟩
  · rw [e] at h
    cases h
    cases hok

/-- The base sum is the base of R87 as a number, modulo 2^16. -/
theorem baseSum_eq_ofNat (f : Fields) (s : State) : baseSum f.mux f.memIndex s = BitVec.ofNat 16 (baseNat f s) := by
  obtain ⟨m, r, x⟩ := f
  have hone (v : Word) : v = BitVec.ofNat 16 v.toNat := by rw [BitVec.ofNat_toNat, BitVec.setWidth_eq]
  have hsum (v w : Word) : v + w = BitVec.ofNat 16 (v.toNat + w.toNat) := by
    rw [BitVec.ofNat_add, ← hone, ← hone]
  have hx : x = 0 ∨ x = 1 ∨ x = 2 ∨ x = 3 ∨ x = 4 ∨ x = 5 ∨ x = 6 ∨ x = 7 := by revert x; decide
  rcases hx with rfl | rfl | rfl | rfl | rfl | rfl | rfl | rfl
  · exact hsum s.bx s.si
  · exact hsum s.bx s.di
  · exact hsum s.bp s.si
  · exact hsum s.bp s.di
  · exact hone s.si
  · exact hone s.di
  · show (if m = 0 then 0 else s.bp) = BitVec.ofNat 16 (if m = 0 then 0 else s.bp.toNat)
    split
    · rfl
    · exact hone s.bp
  · exact hone s.bx

/-- A displacement byte as the integer it is in two's complement (40_decode.md R85). -/
theorem signExtend8_eq_ofInt (d : Byte) : signExtend8 d = BitVec.ofInt 16 d.toInt := by
  rw [← BitVec.ofInt_toInt (x := signExtend8 d), signExtend8, BitVec.toInt_signExtend_of_le (by decide)]

/-- A word as the number that its two bytes make (20_memory.md R43). -/
theorem append_eq_ofNat (hi lo : Byte) : hi ++ lo = BitVec.ofNat 16 (lo.toNat + 256 * hi.toNat) := by
  apply BitVec.eq_of_toNat_eq
  have := lo.isLt
  have := hi.isLt
  rw [BitVec.toNat_append, BitVec.toNat_ofNat, ← Nat.shiftLeft_add_eq_or_of_lt lo.isLt, Nat.shiftLeft_eq]
  omega

/-- The displacement word of a specifier that the stream holds is its displacement as an integer, modulo 2^16. -/
theorem dispWord_eq_ofInt {f : Fields} {s : State} (h : s.cur + 1 + (formatOf f.mux f.memIndex).dispBytes ≤ s.code.length) :
    dispWord (dispBytesAt (formatOf f.mux f.memIndex) s) = BitVec.ofInt 16 (dispInt f s) := by
  unfold dispInt
  cases hf : formatOf f.mux f.memIndex with
  | m0 => rfl
  | m8 =>
    rw [hf] at h
    have hd : s.code[s.cur + 1]? = some _ := List.getElem?_eq_getElem h
    rw [dispBytesAt_m8 hd]
    simp only [List.getD_eq_getElem?_getD, hd, Option.getD_some]
    exact signExtend8_eq_ofInt _
  | m16 =>
    rw [hf, Format.dispBytes] at h
    have hlo : s.code[s.cur + 1]? = some _ := List.getElem?_eq_getElem (by omega)
    have hhi : s.code[s.cur + 2]? = some _ := List.getElem?_eq_getElem h
    rw [dispBytesAt_m16 hlo hhi]
    simp only [List.getD_eq_getElem?_getD, hlo, hhi, Option.getD_some]
    exact append_eq_ofNat _ _

/-- Settles O20: the base and the displacement are words of the numbers that R87, R85 and R86 say, and words add modulo 2^16. -/
theorem effectiveAddressIsModular : Obligations.EffectiveAddressIsModular := by
  unfold Obligations.EffectiveAddressIsModular
  intro s t f seg off pa hg h hok hm
  obtain ⟨_, hwhole, _, hoff, _⟩ := decode_latchedMemory hg h hok hm
  have hint : off = BitVec.ofInt 16 (baseNat f s + dispInt f s) := by
    rw [hoff, baseSum_eq_ofNat, dispWord_eq_ofInt hwhole, BitVec.ofInt_add, BitVec.ofInt_natCast]
  rw [hint, BitVec.toNat_ofInt]
  exact Int.toNat_of_nonneg (Int.emod_nonneg _ (by decide))

/-- Where BP stands in the base, the default segment is the stack segment (40_decode.md R89). -/
theorem defaultSeg_stack {m : BitVec 2} {x : BitVec 3} (hm : m ≠ 3) (h : x = 2 ∨ x = 3 ∨ (x = 6 ∧ m ≠ 0)) :
    defaultSeg m x = Config.segStack := by revert m x; decide

/-- Where BP does not stand in the base, the default segment is the data segment (40_decode.md R89). -/
theorem defaultSeg_data {m : BitVec 2} {x : BitVec 3} (h : ¬(x = 2 ∨ x = 3 ∨ (x = 6 ∧ m ≠ 0))) :
    defaultSeg m x = Config.segData := by revert m x; decide

/-- Settles O21: the latched segment is the pending index or else the default of `mux` and `memIndex`. -/
theorem segmentSelection : Obligations.SegmentSelection := by
  unfold Obligations.SegmentSelection
  intro s t f seg off pa hg h hok hm
  obtain ⟨hmux, _, hseg, _, _⟩ := decode_latchedMemory hg h hok hm
  refine ⟨fun k hk => ?_, fun hnone hbp => ?_, fun hnone hbp => ?_⟩
  · rw [hseg, hk, Option.getD_some]
  · rw [hseg, hnone, Option.getD_none, defaultSeg_stack hmux hbp]
  · rw [hseg, hnone, Option.getD_none, defaultSeg_data hbp]

/-- The physical address as a number (20_memory.md R52, D5). -/
theorem newAddress_toNat (s o : Word) : (newAddress s o).toNat = (s.toNat * 16 + o.toNat) % 1048576 := by
  simp [newAddress, BitVec.toNat_add, BitVec.toNat_mul]

/-- Settles O22: the latched address is the one formed from the segment register as it stood before the `decode`. -/
theorem physicalAddressIsFormedAtDecode : Obligations.PhysicalAddressIsFormedAtDecode := by
  unfold Obligations.PhysicalAddressIsFormedAtDecode
  intro s t f seg off pa hg h hok hm
  obtain ⟨_, _, _, _, hpa⟩ := decode_latchedMemory hg h hok hm
  rw [hpa, newAddress_toNat]

/-! ### What a decode leaves -/

/-- Settles O24: no effect of an instruction that decodes is a store or a write of a register. -/
theorem decodeFrame : Obligations.DecodeFrame := by
  unfold Obligations.DecodeFrame
  intro i s t hi h
  have he := exec_effect h
  obtain ⟨hcode, hrejects⟩ := he.code_rejects_eq
  refine ⟨?_, ?_, fun a => ?_, hcode, hrejects, (exec_answered h).script⟩
  · rcases he.r16_eq_or with hr16 | hw
    · exact hr16
    · cases hw <;> cases hi
  · rcases he.sreg_eq_or with hsreg | ⟨v, rfl⟩
    · exact hsreg
    · cases hi
  · rcases he.mem_eq_or with hmem | ⟨hw, _⟩
    · rw [hmem]
    · cases hw <;> cases hi

end Sys2Proof.Proofs.DecodeRules

namespace Sys2Proof.Proofs.BusNoninterference

/-! What does not depend on the memory bus (40_decode.md R91, R95, 46_accessors.md R157 to R160): with other memory bytes and another
acceptance test, an operation answers the same state with those in place. -/

open Sys2Proof Sys2Proof.Machine Sys2Proof.Proofs.Effects Sys2Proof.Proofs.AssembledForms

/-- The state with another memory and another acceptance test of the bus. -/
def withBus (m : Memory) (rej : List (PhysAddr × AccessKind)) (s : State) : State := { s with mem := m, rejects := rej }

section

variable {m : Memory} {rej : List (PhysAddr × AccessKind)} {s : State}

theorem takeError_withBus (k : ErrorKind) (recorded : Option Nat) (left : Aftermath) :
    takeError k recorded left (withBus m rej s) = withBus m rej (takeError k recorded left s) := by
  cases left <;> rfl

theorem resolveOperand_withBus (f : Fields) (disp : Word) :
    resolveOperand f disp (withBus m rej s) = withBus m rej (resolveOperand f disp s) := by
  by_cases h : f.mux = 3
  · rw [resolveOperand_register h]
    rfl
  · rw [resolveOperand_memory h]
    rfl

/-! ### The command `decode` -/

theorem wordFetchFailed_withBus : wordFetchFailed (withBus m rej s) = withBus m rej (wordFetchFailed s) := by
  unfold wordFetchFailed
  by_cases h : s.cur + 1 = s.code.length
  · rw [if_pos h]
    exact if_pos h
  · rw [if_neg h]
    exact if_neg h

/-- A displacement fetch that fails does so whatever the bus holds. -/
theorem fetchFormat_error_withBus {f : Format} {u : State} (h : fetchFormat f s = .error u) :
    fetchFormat f (withBus m rej s) = .error (withBus m rej u) := by
  cases f with
  | m0 => cases h
  | m8 =>
    cases hd : s.code[s.cur]? with
    | some d =>
      rw [fetchFormat, nextByte_ok hd] at h
      cases h
    | none =>
      have hend : s.code.length ≤ s.cur := List.getElem?_eq_none_iff.mp hd
      rw [fetchFormat, nextByte_exhausted hend] at h
      cases h
      rw [fetchFormat, nextByte_exhausted (s := withBus m rej s) hend]
      rfl
  | m16 =>
    rcases Nat.lt_or_ge s.code.length (s.cur + 2) with hl | hl
    · rw [fetchFormat, nextWord_exhausted hl] at h
      cases h
      rw [fetchFormat, nextWord_exhausted (s := withBus m rej s) hl, wordFetchFailed_withBus]
    · rw [fetchFormat, nextWord_ok (List.getElem?_eq_getElem (by omega)) (List.getElem?_eq_getElem (by omega))] at h
      cases h

/-- Which fetch finds no byte, and what it leaves, does not depend on the bus. -/
theorem cutShort_withBus {u : State} (h : CutShort s u) : CutShort (withBus m rej s) (withBus m rej u) := by
  cases h with
  | noModeByte h => exact .noModeByte h
  | displacement hb hshort hu =>
    rw [fetchSpecifier_eq_fetchFormat hb] at hu
    have hfetch := fetchFormat_error_withBus (m := m) (rej := rej) (error_of_map_error hu)
    refine .displacement hb hshort ?_
    rw [fetchSpecifier_eq_fetchFormat (s := withBus m rej s) hb]
    exact congrArg (Except.map Prod.snd) hfetch

/-- Settles O23, by the three outcomes of a `decode`: each is the same whatever the bus holds. -/
theorem decodeDoesNotReadMemory : Obligations.DecodeDoesNotReadMemory := by
  unfold Obligations.DecodeDoesNotReadMemory
  intro s t m rej h
  show exec .decode (withBus m rej s) = .next (withBus m rej t)
  rcases exec_decode_cases s with ⟨k, hf, e⟩ | ⟨hg, b, f, hb, hformat, hlen, e⟩ | ⟨hg, u, hu, e⟩ <;> rw [e] at h <;> cases h
  · exact exec_decode_faulted hf
  · refine (exec_decode_ok (s := withBus m rej s) hg hb hformat hlen).trans ?_
    exact congrArg (fun x => Host.Outcome.next (respond .ok x))
      (resolveOperand_withBus (s := { s with cur := s.cur + 1 + f.dispBytes }) (fieldsOf b) (dispWord (dispBytesAt f s)))
  · rw [exec_decode_cutShort (s := withBus m rej s) hg (cutShort_withBus hu)]
    exact congrArg Host.Outcome.next (takeError_withBus _ _ _)

/-! ### The accessors of a register operand -/

/-- An accessor's entry with a register operand (46_accessors.md R150). -/
theorem whenResolved_register {onReg : Fields → State → State} {onMem : Fields → PhysAddr → State → State} {f : Fields}
    (hg : s.fault = none) (h : s.resolution = .register f) : whenResolved onReg onMem s = .next (onReg f s) := by
  simp only [whenResolved, whenNoFault_good hg, h]

/-- An accessor of a register operand does not depend on the bus if its work on the register does not. -/
theorem whenResolved_withBus {onReg : Fields → State → State} {onMem : Fields → PhysAddr → State → State} {t : State}
    {f : Fields} (hres : s.resolution = .register f) (h : whenResolved onReg onMem s = .next t)
    (hreg : ∀ f, onReg f (withBus m rej s) = withBus m rej (onReg f s)) :
    whenResolved onReg onMem (withBus m rej s) = .next (withBus m rej t) := by
  rcases Option.eq_none_or_eq_some s.fault with hg | ⟨k, hf⟩
  · rw [whenResolved_register hg hres] at h
    cases h
    rw [whenResolved_register (s := withBus m rej s) hg hres, hreg]
  · rw [whenResolved, whenNoFault_faulted hf] at h
    cases h
    exact whenNoFault_faulted hf

/-- The same for an accessor of the r/m operand. -/
theorem whenResolvedMem_withBus {onReg : BitVec 3 → State → State} {onMem : PhysAddr → State → State} {t : State}
    {f : Fields} (hres : s.resolution = .register f) (h : whenResolvedMem onReg onMem s = .next t)
    (hreg : ∀ i, onReg i (withBus m rej s) = withBus m rej (onReg i s)) :
    whenResolvedMem onReg onMem (withBus m rej s) = .next (withBus m rej t) :=
  whenResolved_withBus hres h fun f => hreg f.memIndex

/-- A segment accessor works on the slot that `regIndex` selects, or raises, whatever the bus holds. -/
theorem withSegSlot_withBus {body : SegIndex → State → State} (i : BitVec 3)
    (hbody : ∀ k, body k (withBus m rej s) = withBus m rej (body k s)) :
    withSegSlot body i (withBus m rej s) = withBus m rej (withSegSlot body i s) := by
  unfold withSegSlot
  cases segSlot i.toNat with
  | some k => exact hbody k
  | none => exact takeError_withBus _ _ _

end

/-- Settles O49: each accessor's work on a register reads and writes registers alone. -/
theorem registerOperandNeverInvokesTheBus : Obligations.RegisterOperandNeverInvokesTheBus := by
  unfold Obligations.RegisterOperandNeverInvokesTheBus
  intro i s t f m rej hi hres h
  cases i with
  | getReg8 | getReg16 | setReg8 | setReg16 => exact whenResolved_withBus hres h fun _ => rfl
  | getMem8 | getMem16 | setMem8 | setMem16 =>
    simp only [exec, execGetMem8, execGetMem16, execSetMem8, execSetMem16] at h ⊢
    exact whenResolvedMem_withBus hres h fun _ => rfl
  | getSeg | setSeg => exact whenResolved_withBus hres h fun _ => withSegSlot_withBus _ fun _ => rfl
  | bxSi | bxDi | bpSi | bpDi | si | di | d16 | bx | bxSiD8 | bxDiD8 | bpSiD8 | bpDiD8 | siD8 | diD8 | bpD8 | bxD8
  | bxSiD16 | bxDiD16 | bpSiD16 | bpDiD16 | siD16 | diD16 | bpD16 | bxD16 | reg0 | reg1 | reg2 | reg3 | reg4 | reg5
  | reg6 | reg7 | decode | armOverride | clearOverride | reset => cases hi

end Sys2Proof.Proofs.BusNoninterference

namespace Sys2Proof.Proofs.MemoryForms

/-! The completion of a memory form, said once for every base sum, displacement and default segment (40_decode.md R87 to R94): what
is left for a form of its own is its format and its row of the table of R67. -/

open Sys2Proof Sys2Proof.Machine

/-- Only the cursor moves between the fetches and the end of the memory path, and neither a base register nor the latched segment
is read from it: the operand is that of the state before the `decode`. -/
theorem resolveMemory_after_fetch {s : State} {fields : Fields} {default : SegIndex} {off : State → Word} (length : Nat)
    (hoff : off { s with cur := s.cur + length } = off s) :
    respond .ok (resolveMemory fields default off { s with cur := s.cur + length }) =
      decodedMemory s length fields default (off s) := by
  simp only [resolveMemory, hoff]
  rfl

/-- A memory form whose specifier the stream holds completes with the cursor behind it (40_decode.md R94). -/
theorem exec_memoryForm_ok {i : Instr} {f : Format} {fields : Fields} {default : SegIndex} {off : State → Word} {s : State}
    (hi : exec i = specifier f (resolveMemory fields default off)) (hg : Good s)
    (hlen : s.cur + (1 + f.dispBytes) ≤ s.code.length)
    (hoff : off { s with cur := s.cur + (1 + f.dispBytes) } = off s) :
    exec i s = .next (decodedMemory s (1 + f.dispBytes) fields default (off s)) := by
  rw [← Nat.add_assoc] at hlen
  rw [hi, specifier_ok hg hlen, Nat.add_assoc, resolveMemory_after_fetch _ hoff]

end Sys2Proof.Proofs.MemoryForms

namespace Sys2Proof.Proofs.MuxZeroForms

/-! The statements of the family 41_mux0_forms.md: each form is the memory form of its row, and no offset depends on the cursor. -/

open Sys2Proof Sys2Proof.Machine Sys2Proof.Proofs.MemoryForms

/-- Settles O12: each of the seven is a memory form of format M0, whose specifier is the mode byte alone. -/
theorem muxZeroBaseFormsResolve : Obligations.MuxZeroBaseFormsResolve := by
  unfold Obligations.MuxZeroBaseFormsResolve
  intro s r hg hlen
  have completes {i : Instr} {fields : Fields} {default : SegIndex} {off : State → Word}
      (hi : exec i = specifier .m0 (resolveMemory fields default off)) (hoff : off { s with cur := s.cur + 1 } = off s) :
      exec i s = .next (decodedMemory s 1 fields default (off s)) := exec_memoryForm_ok hi hg hlen hoff
  have hBxSi : exec (.bxSi r) = execBxSi r := rfl
  have hBxDi : exec (.bxDi r) = execBxDi r := rfl
  have hBpSi : exec (.bpSi r) = execBpSi r := rfl
  have hBpDi : exec (.bpDi r) = execBpDi r := rfl
  have hSi : exec (.si r) = execSi r := rfl
  have hDi : exec (.di r) = execDi r := rfl
  have hBx : exec (.bx r) = execBx r := rfl
  exact ⟨completes hBxSi rfl, completes hBxDi rfl, completes hBpSi rfl, completes hBpDi rfl, completes hSi rfl,
    completes hDi rfl, completes hBx rfl⟩

/-- Settles O13: the direct address is a memory form of format M16, whose offset is the same in every state. -/
theorem directAddressFormResolves : Obligations.DirectAddressFormResolves := by
  unfold Obligations.DirectAddressFormResolves
  intro s r v hg hlen
  have hD16 : exec (.d16 r v) = execD16 r v := rfl
  exact exec_memoryForm_ok hD16 hg hlen rfl

end Sys2Proof.Proofs.MuxZeroForms

namespace Sys2Proof.Proofs.MuxOneForms

/-! The statement of the family 42_mux1_forms.md: each form is the memory form of its row, with one displacement byte whose sign
extension is added to the base sum. -/

open Sys2Proof Sys2Proof.Machine Sys2Proof.Proofs.MemoryForms

/-- Settles O14: each of the eight is a memory form of format M8, and no base sum depends on the cursor. -/
theorem muxOneFormsResolve : Obligations.MuxOneFormsResolve := by
  unfold Obligations.MuxOneFormsResolve
  intro s r d hg hlen
  have completes {i : Instr} {fields : Fields} {default : SegIndex} (base : State → Word)
      (hi : exec i = specifier .m8 (resolveMemory fields default fun s => base s + signExtend8 d))
      (hbase : base { s with cur := s.cur + 2 } = base s) :
      exec i s = .next (decodedMemory s 2 fields default (base s + signExtend8 d)) :=
    exec_memoryForm_ok hi hg hlen (congrArg (· + signExtend8 d) hbase)
  refine ⟨?bxSi, ?bxDi, ?bpSi, ?bpDi, ?si, ?di, ?bp, ?bx⟩
  case bxSi => exact completes (fun s => s.bx + s.si) rfl rfl
  case bxDi => exact completes (fun s => s.bx + s.di) rfl rfl
  case bpSi => exact completes (fun s => s.bp + s.si) rfl rfl
  case bpDi => exact completes (fun s => s.bp + s.di) rfl rfl
  case si => exact completes State.si rfl rfl
  case di => exact completes State.di rfl rfl
  case bp => exact completes State.bp rfl rfl
  case bx => exact completes State.bx rfl rfl

end Sys2Proof.Proofs.MuxOneForms

namespace Sys2Proof.Proofs.MuxTwoForms

/-! The statement of the family 43_mux2_forms.md: each form is the memory form of its row, with a displacement word that is added to
the base sum as it stands. -/

open Sys2Proof Sys2Proof.Machine Sys2Proof.Proofs.MemoryForms

/-- Settles O15: each of the eight is a memory form of format M16, and no base sum depends on the cursor. -/
theorem muxTwoFormsResolve : Obligations.MuxTwoFormsResolve := by
  unfold Obligations.MuxTwoFormsResolve
  intro s r v hg hlen
  have completes {i : Instr} {fields : Fields} {default : SegIndex} (base : State → Word)
      (hi : exec i = specifier .m16 (resolveMemory fields default fun s => base s + v))
      (hbase : base { s with cur := s.cur + 3 } = base s) :
      exec i s = .next (decodedMemory s 3 fields default (base s + v)) :=
    exec_memoryForm_ok hi hg hlen (congrArg (· + v) hbase)
  refine ⟨?bxSi, ?bxDi, ?bpSi, ?bpDi, ?si, ?di, ?bp, ?bx⟩
  case bxSi => exact completes (fun s => s.bx + s.si) rfl rfl
  case bxDi => exact completes (fun s => s.bx + s.di) rfl rfl
  case bpSi => exact completes (fun s => s.bp + s.si) rfl rfl
  case bpDi => exact completes (fun s => s.bp + s.di) rfl rfl
  case si => exact completes State.si rfl rfl
  case di => exact completes State.di rfl rfl
  case bp => exact completes State.bp rfl rfl
  case bx => exact completes State.bx rfl rfl

end Sys2Proof.Proofs.MuxTwoForms

namespace Sys2Proof.Proofs.MuxThreeForms

/-! The statement of the family 44_mux3_forms.md: each form is the register form of its row, with the mode byte as its whole
specifier. -/

open Sys2Proof Sys2Proof.Machine

/-- A register form whose mode byte the stream holds latches its fields and discards a pending override (40_decode.md R93,
45_segment_override.md R145). -/
theorem exec_registerForm_ok {i : Instr} {fields : Fields} {s : State}
    (hi : exec i = specifier .m0 (resolveRegister fields)) (hg : Good s) (hlen : s.cur + 1 ≤ s.code.length) :
    exec i s = .next (decodedRegister s fields) := by
  rw [hi]
  exact specifier_ok hg hlen

/-- Settles O16: each of the eight is a register form, whose resolution is `resolveRegister` of its row's fields. -/
theorem muxThreeFormsResolve : Obligations.MuxThreeFormsResolve := by
  unfold Obligations.MuxThreeFormsResolve
  intro s r hg hlen
  refine ⟨?reg0, ?reg1, ?reg2, ?reg3, ?reg4, ?reg5, ?reg6, ?reg7⟩
  case reg0 => exact exec_registerForm_ok rfl hg hlen
  case reg1 => exact exec_registerForm_ok rfl hg hlen
  case reg2 => exact exec_registerForm_ok rfl hg hlen
  case reg3 => exact exec_registerForm_ok rfl hg hlen
  case reg4 => exact exec_registerForm_ok rfl hg hlen
  case reg5 => exact exec_registerForm_ok rfl hg hlen
  case reg6 => exact exec_registerForm_ok rfl hg hlen
  case reg7 => exact exec_registerForm_ok rfl hg hlen

end Sys2Proof.Proofs.MuxThreeForms

namespace Sys2Proof.Proofs.SegmentOverride

/-! The statements of the family 45_segment_override.md: the commands that set the latch, and what a `decode` makes of it. -/

open Sys2Proof Sys2Proof.Machine Sys2Proof.Proofs.AssembledForms Sys2Proof.Proofs.DecodeRules

/-! ### The commands of the latch -/

theorem segSlot_of_lt {n : Nat} (h : n < 4) : segSlot n = some ⟨n, h⟩ := dif_pos h

theorem segSlot_of_le {n : Nat} (h : 4 ≤ n) : segSlot n = none := dif_neg (Nat.not_lt.mpr h)

/-- Arming with a segment slot (45_segment_override.md R141, R142). -/
theorem exec_armOverride_slot {s : State} {n : Nat} (hg : Good s) (h : n < 4) :
    exec (.armOverride n) s = .next (respond .ok { s with override := some ⟨n, h⟩ }) := by
  simp only [exec, execArmOverride, whenNoFault_good hg, segSlot_of_lt h]

/-- Arming with an index that is no slot (45_segment_override.md R141). -/
theorem exec_armOverride_noSlot {s : State} {n : Nat} (hg : Good s) (h : 4 ≤ n) :
    exec (.armOverride n) s = .next (takeError .registerIndexError (some n) .latchKept s) := by
  simp only [exec, execArmOverride, whenNoFault_good hg, segSlot_of_le h]

/-- Settles O30: the response and the latch are all that arming with a slot writes. -/
theorem armOverrideLatchesTheIndex : Obligations.ArmOverrideLatchesTheIndex := by
  unfold Obligations.ArmOverrideLatchesTheIndex
  intro s n h hg
  exact exec_armOverride_slot hg h

/-- Settles O31: the error's aftermath keeps the latch, and no error touches a collaborator. -/
theorem armOverrideTrapsAboveTheSlots : Obligations.ArmOverrideTrapsAboveTheSlots := by
  unfold Obligations.ArmOverrideTrapsAboveTheSlots
  intro s n h hg
  refine ⟨_, exec_armOverride_noSlot hg h, ⟨rfl, ?fault, rfl⟩, rfl, ⟨rfl, rfl, rfl, fun _ => rfl, rfl, rfl⟩⟩
  case fault => rw [takeError_fault, show s.fault = none from hg, Option.getD_none]

/-- Settles O32: without a fault the command's body runs, which clears the latch and responds. -/
theorem clearOverrideCompletes : Obligations.ClearOverrideCompletes := by
  unfold Obligations.ClearOverrideCompletes
  intro s hg
  simp only [exec, execClearOverride, whenNoFault_good hg]
  rfl

/-! ### What a `decode` makes of the latch -/

/-- Both paths of a `decode` end with the latch clear (45_segment_override.md R144, R145). -/
theorem resolveOperand_override (f : Fields) (disp : Word) (s : State) : (resolveOperand f disp s).override = none := by
  by_cases h : f.mux = 3
  · rw [resolveOperand_register h, resolveRegister_override]
  · rw [resolveOperand_memory h, resolveMemory_override]

/-- Only the register path ends with a register operand (40_decode.md R93). -/
theorem mux_eq_three_of_register {f g : Fields} {disp : Word} {s : State}
    (h : (resolveOperand f disp s).resolution = .register g) : f.mux = 3 := by
  by_contra hmux
  rw [resolveOperand_memory hmux] at h
  cases h

/-- A `decode` without a fault resolves the operand at the cursor, or fails and leaves no operand (40_decode.md R97). -/
theorem decode_resolves_or_fails {s t : State} (hg : Good s) (h : exec .decode s = .next t) :
    (∃ b f, s.code[s.cur]? = some b ∧ formatOf (muxOf b) (memIndexOf b) = f ∧ s.cur + 1 + f.dispBytes ≤ s.code.length ∧
      t = respond .ok (resolveOperand (fieldsOf b) (dispWord (dispBytesAt f s)) { s with cur := s.cur + 1 + f.dispBytes })) ∨
    (¬ RespondedOk t ∧ t.resolution = .unresolved) := by
  rcases exec_decode_cases s with ⟨k, hf, _⟩ | ⟨_, b, f, hb, hformat, hlen, e⟩ | ⟨_, u, _, e⟩
  · rw [hg] at hf
    cases hf
  · rw [e] at h
    cases h
    exact .inl ⟨b, f, hb, hformat, hlen, rfl⟩
  · rw [e] at h
    cases h
    exact .inr ⟨Bool.false_ne_true, rfl⟩

/-- Settles O26: the operand resolved leaves the latch clear, and a memory operand's segment is the latched one of R90. -/
theorem overrideIsUsedOnceAndCleared : Obligations.OverrideIsUsedOnceAndCleared := by
  unfold Obligations.OverrideIsUsedOnceAndCleared
  intro s t hg h hok
  refine ⟨?clear, fun f seg off pa hm => (decode_latchedMemory hg h hok hm).segment⟩
  case clear =>
    rcases decode_resolves_or_fails hg h with ⟨b, f, _, _, _, rfl⟩ | ⟨hfailed, _⟩
    · exact resolveOperand_override _ _ _
    · exact absurd hok hfailed

/-- Settles O27: the specifier and its length do not depend on the latch, and the register path overwrites it unread. -/
theorem registerDecodeDiscardsTheOverride : Obligations.RegisterDecodeDiscardsTheOverride := by
  unfold Obligations.RegisterDecodeDiscardsTheOverride
  intro s t g hg h hreg
  rcases decode_resolves_or_fails hg h with ⟨b, f, hb, hformat, hlen, rfl⟩ | ⟨_, hunresolved⟩
  · refine ⟨resolveOperand_override _ _ _, fun o => ?_⟩
    have hmux : (fieldsOf b).mux = 3 := mux_eq_three_of_register hreg
    rw [exec_decode_ok (s := { s with override := o }) hg hb hformat hlen, resolveOperand_register hmux,
      resolveOperand_register hmux]
    rfl
  · rw [hunresolved] at hreg
    cases hreg

/-- A command that responds with no error leaves the machine without fault (60_exceptions.md R176). -/
theorem good_of_respondedOk {i : Instr} {s t : State} (h : exec i s = .next t) (hok : RespondedOk t) : Good t := by
  obtain ⟨r, hr, hiff⟩ := (exec_answered h).response
  rw [RespondedOk, hr] at hok
  exact hiff.mp hok

/-- Settles O28: the first `decode` leaves the latch clear, so the second finds the default. -/
theorem overrideAffectsOneDecodeOnly : Obligations.OverrideAffectsOneDecodeOnly := by
  unfold Obligations.OverrideAffectsOneDecodeOnly
  intro s t u f seg off pa hg hst htok htu huok hm
  obtain ⟨hclear, _⟩ := overrideIsUsedOnceAndCleared s t hg hst htok
  have hseg := (decode_latchedMemory (good_of_respondedOk hst htok) htu huok hm).segment
  rw [hseg, hclear, Option.getD_none]

/-- Settles O29: the `decode` selects the latched index, and reads that register in the state after the write. -/
theorem overrideReadsTheSegmentAtDecode : Obligations.OverrideReadsTheSegmentAtDecode := by
  unfold Obligations.OverrideReadsTheSegmentAtDecode
  intro s a t k value f seg off pa hg harm hdecode hok hm
  rw [exec_armOverride_slot hg k.isLt] at harm
  cases harm
  have hlatched := decode_latchedMemory (s := (respond .ok { s with override := some k }).setSeg k value) hg hdecode hok hm
  have hseg : seg = k := hlatched.segment
  refine ⟨hseg, ?_⟩
  rw [hlatched.address, hseg, seg_setSeg, if_pos rfl]

end Sys2Proof.Proofs.SegmentOverride

namespace Sys2Proof.Proofs.Accessors

/-! The statements of the family 46_accessors.md: one equation per accessor, operand and verdict of the bus, and what follows from
those equations. -/

open Sys2Proof Sys2Proof.Machine Sys2Proof.Proofs.Effects Sys2Proof.Proofs.MemoryBus Sys2Proof.Proofs.SegmentOverride

/-! ### The latched fields -/

/-- Fields are latched where an operand is resolved, of either kind (10_state.md R12). -/
theorem fields_eq_some_iff {r : Resolution} {f : Fields} :
    r.fields = some f ↔ r = .register f ∨ ∃ seg off pa, r = .memory f seg off pa := by
  cases r <;> simp [Resolution.fields]

/-- No fields are latched exactly while no operand is resolved (10_state.md R12). -/
theorem fields_eq_none_iff {r : Resolution} : r.fields = none ↔ r = .unresolved := by
  cases r <;> simp [Resolution.fields]

/-! ### A register written is read back -/

theorem reg16_setReg16_same (s : State) (i : BitVec 3) (v : Word) : (s.setReg16 i v).reg16 i = v := by
  rw [reg16_setReg16, if_pos rfl]

theorem reg8_setReg8_same (s : State) (i : BitVec 3) (v : Byte) : (s.setReg8 i v).reg8 i = v := by
  rw [reg8_setReg8, if_pos rfl]

theorem seg_setSeg_same (s : State) (k : SegIndex) (v : Word) : (s.setSeg k v).seg k = v := by
  rw [seg_setSeg, if_pos rfl]

/-! ### A write of an 8-bit register, half by half (10_state.md R21) -/

theorem setReg8_low (s : State) {i : BitVec 3} (v : Byte) (h : i < 4) :
    s.setReg8 i v = s.setReg16 i ((s.reg16 i).extractLsb' 8 8 ++ v) := by
  obtain ⟨hhome, hhalf⟩ := byteHome_low h
  rw [State.setReg8, hhome, hhalf, if_neg Bool.false_ne_true]

theorem setReg8_high (s : State) {i : BitVec 3} (v : Byte) (h : 4 ≤ i) :
    s.setReg8 i v = s.setReg16 (i - 4) (v ++ (s.reg16 (i - 4)).extractLsb' 0 8) := by
  obtain ⟨hhome, hhalf⟩ := byteHome_high h
  rw [State.setReg8, hhome, hhalf, if_pos rfl]

/-! ### The accessors of the other operand -/

section

variable {s : State} {f : Fields}

/-- The register that `regIndex` selects is reached in both resolved states alike (46_accessors.md R150). -/
theorem whenResolvedReg_of_fields (body : BitVec 3 → State → State) (hg : Good s) (hf : s.resolution.fields = some f) :
    whenResolvedReg body s = .next (body f.regIndex s) :=
  whenResolvedReg_ok body hg (fields_eq_some_iff.mp hf)

theorem exec_getReg8 (hg : Good s) (hf : s.resolution.fields = some f) :
    exec .getReg8 s = .next (respond (.okByte (s.reg8 f.regIndex)) s) := by
  rw [exec, execGetReg8, whenResolvedReg_of_fields _ hg hf]

theorem exec_getReg16 (hg : Good s) (hf : s.resolution.fields = some f) :
    exec .getReg16 s = .next (respond (.okWord (s.reg16 f.regIndex)) s) := by
  rw [exec, execGetReg16, whenResolvedReg_of_fields _ hg hf]

theorem exec_setReg8 (v : Byte) (hg : Good s) (hf : s.resolution.fields = some f) :
    exec (.setReg8 v) s = .next (respond .ok (s.setReg8 f.regIndex v)) := by
  rw [exec, execSetReg8, whenResolvedReg_of_fields _ hg hf]

theorem exec_setReg16 (v : Word) (hg : Good s) (hf : s.resolution.fields = some f) :
    exec (.setReg16 v) s = .next (respond .ok (s.setReg16 f.regIndex v)) := by
  rw [exec, execSetReg16, whenResolvedReg_of_fields _ hg hf]

theorem withSegSlot_slot (body : SegIndex → State → State) {i : BitVec 3} (h : i.toNat < 4) :
    withSegSlot body i s = body ⟨i.toNat, h⟩ s := by
  rw [withSegSlot, segSlot_of_lt h]

/-- A `regIndex` that is no slot raises with the index (46_accessors.md R155, R156). -/
theorem withSegSlot_noSlot (body : SegIndex → State → State) {i : BitVec 3} (h : 4 ≤ i.toNat) :
    withSegSlot body i s = takeError .registerIndexError (some i.toNat) .unspecified s := by
  rw [withSegSlot, segSlot_of_le h]

theorem exec_getSeg_slot (hg : Good s) (hf : s.resolution.fields = some f) (h : f.regIndex.toNat < 4) :
    exec .getSeg s = .next (respond (.okWord (s.seg ⟨f.regIndex.toNat, h⟩)) s) := by
  rw [exec, execGetSeg, whenResolvedReg_of_fields _ hg hf, withSegSlot_slot _ h]

theorem exec_setSeg_slot (v : Word) (hg : Good s) (hf : s.resolution.fields = some f) (h : f.regIndex.toNat < 4) :
    exec (.setSeg v) s = .next (respond .ok (s.setSeg ⟨f.regIndex.toNat, h⟩ v)) := by
  rw [exec, execSetSeg, whenResolvedReg_of_fields _ hg hf, withSegSlot_slot _ h]

theorem exec_getSeg_noSlot (hg : Good s) (hf : s.resolution.fields = some f) (h : 4 ≤ f.regIndex.toNat) :
    exec .getSeg s = .next (takeError .registerIndexError (some f.regIndex.toNat) .unspecified s) := by
  rw [exec, execGetSeg, whenResolvedReg_of_fields _ hg hf, withSegSlot_noSlot _ h]

theorem exec_setSeg_noSlot (v : Word) (hg : Good s) (hf : s.resolution.fields = some f) (h : 4 ≤ f.regIndex.toNat) :
    exec (.setSeg v) s = .next (takeError .registerIndexError (some f.regIndex.toNat) .unspecified s) := by
  rw [exec, execSetSeg, whenResolvedReg_of_fields _ hg hf, withSegSlot_noSlot _ h]

/-! ### The accessors of the r/m operand -/

theorem exec_getMem8_register (hg : Good s) (hr : s.resolution = .register f) :
    exec .getMem8 s = .next (respond (.okByte (s.reg8 f.memIndex)) s) := by
  rw [exec, execGetMem8, whenResolvedMem_register _ _ hg hr]

theorem exec_getMem16_register (hg : Good s) (hr : s.resolution = .register f) :
    exec .getMem16 s = .next (respond (.okWord (s.reg16 f.memIndex)) s) := by
  rw [exec, execGetMem16, whenResolvedMem_register _ _ hg hr]

theorem exec_setMem8_register (v : Byte) (hg : Good s) (hr : s.resolution = .register f) :
    exec (.setMem8 v) s = .next (respond .ok (s.setReg8 f.memIndex v)) := by
  rw [exec, execSetMem8, whenResolvedMem_register _ _ hg hr]

theorem exec_setMem16_register (v : Word) (hg : Good s) (hr : s.resolution = .register f) :
    exec (.setMem16 v) s = .next (respond .ok (s.setReg16 f.memIndex v)) := by
  rw [exec, execSetMem16, whenResolvedMem_register _ _ hg hr]

variable {seg : SegIndex} {off : Word} {pa : PhysAddr}

theorem memRead8_accepted (h : s.addrValid pa .read = true) : memRead8 pa s = some (s.byteAt pa) := if_pos h

theorem memRead16_accepted (h : s.wordValid pa .read = true) : memRead16 pa s = some (s.wordAt pa) := if_pos h

theorem exec_getMem8_accepted (hg : Good s) (hm : s.resolution = .memory f seg off pa)
    (h : s.addrValid pa .read = true) : exec .getMem8 s = .next (respond (.okByte (s.byteAt pa)) s) := by
  rw [exec, execGetMem8, whenResolvedMem_memory _ _ hg hm, memRead8_accepted h]

theorem exec_getMem16_accepted (hg : Good s) (hm : s.resolution = .memory f seg off pa)
    (h : s.wordValid pa .read = true) : exec .getMem16 s = .next (respond (.okWord (s.wordAt pa)) s) := by
  rw [exec, execGetMem16, whenResolvedMem_memory _ _ hg hm, memRead16_accepted h]

end

/-! ### Errors -/

section

variable {s t : State} {i : Instr}

/-- An error raised without a fault held is the one that the fault register takes (60_exceptions.md R176 (a), (c)). -/
theorem takeError_raised (k : ErrorKind) (recorded : Option Nat) (left : Aftermath) (hg : Good s) :
    Raised k recorded s (takeError k recorded left s) where
  response := takeError_response s k recorded left
  fault := by rw [takeError_fault, hg, Option.getD_none]
  script := takeError_script s k recorded left

theorem exec_accessor_unresolved (hi : isAccessor i = true) (hg : Good s) (hu : s.resolution = .unresolved) :
    exec i s = .next (takeError .protocolViolation none .unspecified s) := by
  obtain ⟨onReg, onMem, hexec⟩ := exec_accessor i hi
  simp only [hexec, whenResolved, whenNoFault_good hg, hu]

/-- A command that raised an error did not respond `ok`. -/
theorem not_respondedOk_of_takeError {u : State} {k : ErrorKind} {recorded : Option Nat} {left : Aftermath}
    (h : exec i s = .next (takeError k recorded left u)) (ht : exec i s = .next t) : ¬ RespondedOk t := by
  rw [h] at ht
  cases ht
  exact Bool.false_ne_true

/-- An accessor that responds `ok` had an operand (46_accessors.md R150). -/
theorem fields_of_respondedOk (hi : isAccessor i = true) (hg : Good s) (h : exec i s = .next t) (hok : RespondedOk t) :
    ∃ f, s.resolution.fields = some f := by
  refine Option.ne_none_iff_exists'.mp fun hnone => ?_
  exact not_respondedOk_of_takeError (exec_accessor_unresolved hi hg (fields_eq_none_iff.mp hnone)) h hok

/-- The operand it had was a register or memory. -/
theorem operand_of_respondedOk (hi : isAccessor i = true) (hg : Good s) (h : exec i s = .next t) (hok : RespondedOk t) :
    (∃ f, s.resolution = .register f) ∨ ∃ f seg off pa, s.resolution = .memory f seg off pa := by
  obtain ⟨f, hf⟩ := fields_of_respondedOk hi hg h hok
  exact (fields_eq_some_iff.mp hf).imp (⟨f, ·⟩) (⟨f, ·⟩)

end

/-! ### What an accessor keeps -/

/-- Without a fault held after it, the resolved operand, the override latch and the cursor are as before (46_accessors.md R161). -/
def KeepsBlock (s t : State) : Prop :=
  Good t → t.resolution = s.resolution ∧ t.override = s.override ∧ t.cur = s.cur

section

variable {s t : State}

theorem keepsBlock_takeError (k : ErrorKind) (recorded : Option Nat) (left : Aftermath) (u : State) :
    KeepsBlock s (takeError k recorded left u) := fun h => by cases h

/-- Behind the accessors' precondition the work on either operand is left to look at. -/
theorem whenResolved_keepsBlock {onReg : Fields → State → State} {onMem : Fields → PhysAddr → State → State}
    (hreg : ∀ f, KeepsBlock s (onReg f s)) (hmem : ∀ f pa, KeepsBlock s (onMem f pa s))
    (h : whenResolved onReg onMem s = .next t) : KeepsBlock s t := by
  rcases whenResolved_cases onReg onMem s with
    ⟨k, _, e⟩ | ⟨_, _, e⟩ | ⟨_, f, _, e⟩ | ⟨_, f, _, _, pa, _, e⟩ <;> rw [e] at h <;> cases h
  · exact fun _ => ⟨rfl, rfl, rfl⟩
  · exact keepsBlock_takeError _ _ _ _
  · exact hreg f
  · exact hmem f pa

theorem whenResolvedReg_keepsBlock {body : BitVec 3 → State → State} (hbody : ∀ j, KeepsBlock s (body j s))
    (h : whenResolvedReg body s = .next t) : KeepsBlock s t :=
  whenResolved_keepsBlock (fun f => hbody f.regIndex) (fun f _ => hbody f.regIndex) h

theorem whenResolvedMem_keepsBlock {onReg : BitVec 3 → State → State} {onMem : PhysAddr → State → State}
    (hreg : ∀ j, KeepsBlock s (onReg j s)) (hmem : ∀ pa, KeepsBlock s (onMem pa s))
    (h : whenResolvedMem onReg onMem s = .next t) : KeepsBlock s t :=
  whenResolved_keepsBlock (fun f => hreg f.memIndex) (fun _ => hmem) h

theorem withSegSlot_keepsBlock {body : SegIndex → State → State} (j : BitVec 3) (hbody : ∀ k, KeepsBlock s (body k s)) :
    KeepsBlock s (withSegSlot body j s) := by
  unfold withSegSlot
  cases segSlot j.toNat with
  | some k => exact hbody k
  | none => exact keepsBlock_takeError _ _ _ _

/-- Each accessor's work responds and writes collaborators other than the cursor, or raises (46_accessors.md R151 to R160). -/
theorem accessor_keepsBlock {i : Instr} (hi : isAccessor i = true) (h : exec i s = .next t) : KeepsBlock s t := by
  have kept : ∀ {u : State}, u.resolution = s.resolution → u.override = s.override → u.cur = s.cur → KeepsBlock s u :=
    fun hres hlatch hcur _ => ⟨hres, hlatch, hcur⟩
  cases i with
  | getReg8 | getReg16 | setReg8 | setReg16 =>
    simp only [exec, execGetReg8, execGetReg16, execSetReg8, execSetReg16] at h
    exact whenResolvedReg_keepsBlock (fun _ => kept rfl rfl rfl) h
  | getSeg | setSeg =>
    simp only [exec, execGetSeg, execSetSeg] at h
    exact whenResolvedReg_keepsBlock (fun j => withSegSlot_keepsBlock j fun _ => kept rfl rfl rfl) h
  | getMem8 =>
    simp only [exec, execGetMem8] at h
    refine whenResolvedMem_keepsBlock (fun _ => kept rfl rfl rfl) (fun pa => ?_) h
    cases memRead8 pa s with
    | some v => exact kept rfl rfl rfl
    | none => exact keepsBlock_takeError _ _ _ _
  | getMem16 =>
    simp only [exec, execGetMem16] at h
    refine whenResolvedMem_keepsBlock (fun _ => kept rfl rfl rfl) (fun pa => ?_) h
    cases memRead16 pa s with
    | some v => exact kept rfl rfl rfl
    | none => exact keepsBlock_takeError _ _ _ _
  | setMem8 v =>
    simp only [exec, execSetMem8] at h
    refine whenResolvedMem_keepsBlock (fun _ => kept rfl rfl rfl) (fun pa => ?_) h
    cases hv : s.addrValid pa .write
    · rw [memWrite8_rejected v hv]
      exact keepsBlock_takeError _ _ _ _
    · rw [memWrite8_accepted v hv]
      exact kept rfl rfl rfl
  | setMem16 v =>
    simp only [exec, execSetMem16] at h
    refine whenResolvedMem_keepsBlock (fun _ => kept rfl rfl rfl) (fun pa => ?_) h
    cases hv : s.wordValid pa .write
    · rw [memWrite16_rejected v hv]
      exact keepsBlock_takeError _ _ _ _
    · rw [memWrite16_accepted v hv]
      exact kept rfl rfl rfl
  | bxSi | bxDi | bpSi | bpDi | si | di | d16 | bx | bxSiD8 | bxDiD8 | bpSiD8 | bpDiD8 | siD8 | diD8 | bpD8 | bxD8
  | bxSiD16 | bxDiD16 | bpSiD16 | bpDiD16 | siD16 | diD16 | bpD16 | bxD16 | reg0 | reg1 | reg2 | reg3 | reg4 | reg5
  | reg6 | reg7 | decode | armOverride | clearOverride | reset => cases hi

end

/-! ### The statements -/

/-- Settles O34: a byte register is the low half of its register below index 4 and the high half from 4 on, and a write of a
register is all that the setters do. -/
theorem setRegWritesTheRegIndexRegister : Obligations.SetRegWritesTheRegIndexRegister := by
  unfold Obligations.SetRegWritesTheRegIndexRegister
  intro s f hg hf
  refine ⟨fun v => exec_setReg16 v hg hf, fun v hlow => ?_, fun v hhigh => ?_⟩
  · rw [exec_setReg8 v hg hf, setReg8_low s v hlow]
    rfl
  · rw [exec_setReg8 v hg hf, setReg8_high s v hhigh]
    rfl

/-- A word store that responded `ok` was one to a register or one that the bus accepted; the read reaches the same operand. -/
theorem getMem16_after_setMem16 {s t : State} {v : Word} (hwf : s.mem.wf = true) (hg : Good s)
    (hread : ∀ f seg off pa, s.resolution = .memory f seg off pa → s.wordValid pa .read = true)
    (h : exec (.setMem16 v) s = .next t) (hok : RespondedOk t) :
    ∃ u, exec .getMem16 t = .next u ∧ u.response = some (.okWord v) := by
  rcases operand_of_respondedOk rfl hg h hok with ⟨f, hr⟩ | ⟨f, seg, off, pa, hm⟩
  · rw [exec_setMem16_register v hg hr] at h
    cases h
    refine ⟨_, exec_getMem16_register (s := respond .ok (s.setReg16 f.memIndex v)) hg hr, ?_⟩
    exact congrArg (some <| Response.okWord ·) (reg16_setReg16_same s f.memIndex v)
  · cases hv : s.wordValid pa .write
    · exact absurd hok (not_respondedOk_of_takeError (exec_setMem16_rejected v hg hm hv) h)
    · rw [exec_setMem16_accepted v hg hm hv] at h
      cases h
      refine ⟨_, exec_getMem16_accepted (s := respond .ok (s.setWordAt pa v)) hg hm (hread f seg off pa hm), ?_⟩
      exact congrArg (some <| Response.okWord ·) (wordAt_setWordAt hwf pa v)

/-- The same for a byte. -/
theorem getMem8_after_setMem8 {s t : State} {v : Byte} (hwf : s.mem.wf = true) (hg : Good s)
    (hread : ∀ f seg off pa, s.resolution = .memory f seg off pa → s.addrValid pa .read = true)
    (h : exec (.setMem8 v) s = .next t) (hok : RespondedOk t) :
    ∃ u, exec .getMem8 t = .next u ∧ u.response = some (.okByte v) := by
  rcases operand_of_respondedOk rfl hg h hok with ⟨f, hr⟩ | ⟨f, seg, off, pa, hm⟩
  · rw [exec_setMem8_register v hg hr] at h
    cases h
    refine ⟨_, exec_getMem8_register (s := respond .ok (s.setReg8 f.memIndex v)) hg hr, ?_⟩
    exact congrArg (some <| Response.okByte ·) (reg8_setReg8_same s f.memIndex v)
  · cases hv : s.addrValid pa .write
    · exact absurd hok (not_respondedOk_of_takeError (exec_setMem8_rejected v hg hm hv) h)
    · rw [exec_setMem8_accepted v hg hm hv] at h
      cases h
      refine ⟨_, exec_getMem8_accepted (s := respond .ok (s.setByteAt pa v)) hg hm (hread f seg off pa hm), ?_⟩
      exact congrArg (some <| Response.okByte ·) (Memory.read_write_same v hwf)

/-- Settles O44, width by width: the bus accepts the read of a word where it accepts both its bytes. -/
theorem memAccessorsRoundTrip : Obligations.MemAccessorsRoundTrip := by
  unfold Obligations.MemAccessorsRoundTrip
  intro s t hwf hg
  refine ⟨fun hread v => getMem16_after_setMem16 hwf hg fun f seg off pa hm => ?_,
    fun hread v => getMem8_after_setMem8 hwf hg hread⟩
  exact wordValid_eq_true_iff.mpr (hread f seg off pa hm)

/-- Settles O45: the write that responded `ok` leaves the operand, so the read reaches the same register. -/
theorem regAccessorsRoundTrip : Obligations.RegAccessorsRoundTrip := by
  unfold Obligations.RegAccessorsRoundTrip
  intro s t hg
  refine ⟨fun v h hok => ?reg16, fun v h hok => ?reg8, fun v h hok => ?seg⟩
  case reg16 =>
    obtain ⟨f, hf⟩ := fields_of_respondedOk rfl hg h hok
    rw [exec_setReg16 v hg hf] at h
    cases h
    refine ⟨_, exec_getReg16 (s := respond .ok (s.setReg16 f.regIndex v)) hg hf, ?_⟩
    exact congrArg (some <| Response.okWord ·) (reg16_setReg16_same s f.regIndex v)
  case reg8 =>
    obtain ⟨f, hf⟩ := fields_of_respondedOk rfl hg h hok
    rw [exec_setReg8 v hg hf] at h
    cases h
    refine ⟨_, exec_getReg8 (s := respond .ok (s.setReg8 f.regIndex v)) hg hf, ?_⟩
    exact congrArg (some <| Response.okByte ·) (reg8_setReg8_same s f.regIndex v)
  case seg =>
    obtain ⟨f, hf⟩ := fields_of_respondedOk rfl hg h hok
    rcases Nat.lt_or_ge f.regIndex.toNat 4 with hslot | hslot
    · rw [exec_setSeg_slot v hg hf hslot] at h
      cases h
      refine ⟨_, exec_getSeg_slot (s := respond .ok (s.setSeg ⟨f.regIndex.toNat, hslot⟩ v)) hg hf hslot, ?_⟩
      exact congrArg (some <| Response.okWord ·) (seg_setSeg_same s _ v)
    · exact absurd hok (not_respondedOk_of_takeError (exec_setSeg_noSlot v hg hf hslot) h)

/-- Settles O47: a command that responds `ok` holds no fault, and without one an accessor keeps the rest. -/
theorem accessorsKeepTheBlockState : Obligations.AccessorsKeepTheBlockState := by
  unfold Obligations.AccessorsKeepTheBlockState
  intro i s t hi _ h hok
  have hgood : Good t := good_of_respondedOk h hok
  obtain ⟨hres, hlatch, hcur⟩ := accessor_keepsBlock hi h hgood
  exact ⟨hres, hlatch, hgood, hcur⟩

/-- Settles O50: the precondition of every accessor raises, and no error touches a collaborator. -/
theorem accessorsTrapWhileUnresolved : Obligations.AccessorsTrapWhileUnresolved := by
  unfold Obligations.AccessorsTrapWhileUnresolved
  intro i s hi hg hu
  exact ⟨_, exec_accessor_unresolved hi hg hu, takeError_raised _ _ _ hg, (Declined.raised _ _ _).sameCollaborators⟩

/-- Settles O33: the response is all that the getters write. -/
theorem getRegReturnsTheRegIndexRegister : Obligations.GetRegReturnsTheRegIndexRegister := by
  unfold Obligations.GetRegReturnsTheRegIndexRegister
  intro s f hg hf
  exact ⟨exec_getReg8 hg hf, exec_getReg16 hg hf⟩

/-- Settles O35: below the bound `regIndex` is a slot, which the accessor's work is done on. -/
theorem segAccessorsUseTheRegIndexSlot : Obligations.SegAccessorsUseTheRegIndexSlot := by
  unfold Obligations.SegAccessorsUseTheRegIndexSlot
  intro s f h hg hf
  exact ⟨exec_getSeg_slot hg hf h, fun v => exec_setSeg_slot v hg hf h⟩

/-- Settles O36: from the bound on `regIndex` is no slot, so both raise, and no error touches a collaborator. -/
theorem segAccessorsTrapAboveTheSlots : Obligations.SegAccessorsTrapAboveTheSlots := by
  unfold Obligations.SegAccessorsTrapAboveTheSlots
  intro i s f hi h hg hf
  refine ⟨takeError .registerIndexError (some f.regIndex.toNat) .unspecified s, ?_, takeError_raised _ _ _ hg,
    (Declined.raised _ _ _).sameCollaborators⟩
  rcases hi with rfl | ⟨v, rfl⟩
  · exact exec_getSeg_noSlot hg hf h
  · exact exec_setSeg_noSlot v hg hf h

/-- Settles O37: the accessors of a register operand, with a byte write split by the half that `memIndex` selects. -/
theorem memAccessorsReachTheRegisterOperand : Obligations.MemAccessorsReachTheRegisterOperand := by
  unfold Obligations.MemAccessorsReachTheRegisterOperand
  intro s f hg hr
  refine ⟨exec_getMem8_register hg hr, exec_getMem16_register hg hr, fun v => exec_setMem16_register v hg hr,
    fun v hlow => ?_, fun v hhigh => ?_⟩
  · rw [exec_setMem8_register v hg hr, setReg8_low s v hlow]
    rfl
  · rw [exec_setMem8_register v hg hr, setReg8_high s v hhigh]
    rfl

/-- Settles O38: an accepted read responds with the byte or the word at the latched address, and the high byte of a word is at
the next one. -/
theorem getMemReadsTheLatchedAddress : Obligations.GetMemReadsTheLatchedAddress := by
  unfold Obligations.GetMemReadsTheLatchedAddress
  intro s f seg off pa hg hm hlow
  refine ⟨exec_getMem8_accepted hg hm hlow, fun hhigh => ?_⟩
  rw [exec_getMem16_accepted hg hm (wordValid_eq_true_iff.mpr ⟨hlow, hhigh⟩), ← highByteAt_toNat]
  rfl

/-- Settles O39: an accepted store writes the byte or the word at the latched address, and the high byte of a word goes to the
next one. -/
theorem setMemWritesTheLatchedAddress : Obligations.SetMemWritesTheLatchedAddress := by
  unfold Obligations.SetMemWritesTheLatchedAddress
  intro s f seg off pa hg hm hlow
  refine ⟨fun v => exec_setMem8_accepted v hg hm hlow, fun hhigh v => ?_⟩
  rw [exec_setMem16_accepted v hg hm (wordValid_eq_true_iff.mpr ⟨hlow, hhigh⟩), ← highByteAt_toNat]
  rfl

end Sys2Proof.Proofs.Accessors

namespace Sys2Proof.Proofs.Exceptions

/-! The statements of the family 60_exceptions.md: a command ends in a next state, refused while a fault is held, and without one
with a fault register that a command may leave. -/

open Sys2Proof Sys2Proof.Machine Sys2Proof.Proofs.Effects Sys2Proof.Proofs.MemoryBus Sys2Proof.Proofs.AssembledForms
  Sys2Proof.Proofs.SegmentOverride

/-! ### The fault register after a command -/

/-- The fault register does not hold `InvariantViolation` (60_exceptions.md R173). -/
def NoDefect (t : State) : Prop := t.fault ≠ some .invariantViolation

theorem noDefect_of_good {t : State} (hg : Good t) : NoDefect t := by
  rw [NoDefect, hg]
  exact nofun

/-- An error of another kind, raised while no fault is held, is the one that the fault register takes (60_exceptions.md R176). -/
theorem noDefect_takeError {k : ErrorKind} {recorded : Option Nat} {left : Aftermath} {s : State}
    (hk : k ≠ .invariantViolation) (hg : Good s) : NoDefect (takeError k recorded left s) := by
  rw [NoDefect, takeError_fault, hg, Option.getD_none]
  exact fun h => hk (Option.some.inj h)

theorem noDefect_memoryAccessError {s : State} (pa : PhysAddr) (hg : Good s) : NoDefect (memoryAccessError pa s) :=
  noDefect_takeError (by decide) hg

/-! ### What every command but `reset` ends in -/

/-- A command is refused with the kind in `fault`, or runs while no fault is held and ends in a next state (60_exceptions.md
R176, R179). -/
inductive Served (s : State) (o : Out) : Prop where
  | refused {k : ErrorKind} (hf : s.fault = some k) (ho : o = .next (refuse k s))
  | ran (hg : Good s) {t : State} (ho : o = .next t) (ht : NoDefect t)

/-- Behind the common entry only the body of a machine without fault is left to look at. -/
theorem whenNoFault_served {body : State → Out} {s : State} (hbody : Good s → ∃ t, body s = .next t ∧ NoDefect t) :
    Served s (whenNoFault body s) := by
  rcases Option.eq_none_or_eq_some s.fault with hg | ⟨k, hf⟩
  · obtain ⟨t, ht, hnone⟩ := hbody hg
    exact .ran hg ((whenNoFault_good hg).trans ht) hnone
  · exact .refused hf (whenNoFault_faulted hf)

/-- Every form resolves, or runs out of stream. -/
theorem form_served {i : Instr} (hi : i.isForm = true) (s : State) : Served s (exec i s) := by
  rcases exec_form_cases i hi s with ⟨k, hf, e⟩ | ⟨hg, _, _, _, _, e⟩ | ⟨hg, u, hu, e⟩
  · exact .refused hf e
  · exact .ran hg e (noDefect_of_good (good_of_respondedOk e rfl))
  · have hgu : Good u := by rw [hu.eq]; exact hg
    exact .ran hg e (noDefect_takeError (by decide) hgu)

/-- The fetches of a specifier that is cut short leave the fault register. -/
theorem good_of_cutShort {s u : State} (hg : Good s) (h : CutShort s u) : Good u := by
  cases h with
  | noModeByte => exact hg
  | displacement hb hshort hu =>
    obtain ⟨t, ht, hfailed⟩ := fetchSpecifier_error hshort
    obtain rfl : u = t := Except.error.inj (hu.symm.trans ht)
    rw [hfailed.eq]
    exact hg

/-- The command `decode` resolves, or runs out of stream; no specifier leads to anything that is no form (40_decode.md R98). -/
theorem decode_served (s : State) : Served s (exec .decode s) := by
  rcases exec_decode_cases s with ⟨k, hf, e⟩ | ⟨hg, _, _, _, _, _, e⟩ | ⟨hg, u, hu, e⟩
  · exact .refused hf e
  · exact .ran hg e (noDefect_of_good (good_of_respondedOk e rfl))
  · exact .ran hg e (noDefect_takeError (by decide) (good_of_cutShort hg hu))

/-- Behind the accessors' precondition the work on either operand is left to look at (46_accessors.md R150). -/
theorem whenResolved_served {onReg : Fields → State → State} {onMem : Fields → PhysAddr → State → State} {s : State}
    (hreg : Good s → ∀ f, NoDefect (onReg f s)) (hmem : Good s → ∀ f pa, NoDefect (onMem f pa s)) :
    Served s (whenResolved onReg onMem s) := by
  rcases whenResolved_cases onReg onMem s with
    ⟨k, hf, e⟩ | ⟨hg, _, e⟩ | ⟨hg, f, _, e⟩ | ⟨hg, f, _, _, pa, _, e⟩
  · exact .refused hf e
  · exact .ran hg e (noDefect_takeError (by decide) hg)
  · exact .ran hg e (hreg hg f)
  · exact .ran hg e (hmem hg f pa)

/-- An accessor of the r/m operand reaches a register or the latched address. -/
theorem whenResolvedMem_served {onReg : BitVec 3 → State → State} {onMem : PhysAddr → State → State} {s : State}
    (hreg : Good s → ∀ j, NoDefect (onReg j s)) (hmem : Good s → ∀ pa, NoDefect (onMem pa s)) :
    Served s (whenResolvedMem onReg onMem s) :=
  whenResolved_served (fun hg f => hreg hg f.memIndex) (fun hg _ => hmem hg)

/-- A segment accessor does its work on a slot, or raises `RegisterIndexError` (46_accessors.md R155, R156). -/
theorem noDefect_withSegSlot {body : SegIndex → State → State} {s : State} (hg : Good s) (j : BitVec 3)
    (hbody : ∀ k, NoDefect (body k s)) : NoDefect (withSegSlot body j s) := by
  unfold withSegSlot
  cases segSlot j.toNat with
  | some k => exact hbody k
  | none => exact noDefect_takeError (by decide) hg

/-- An accessor's work responds or raises, with one of three kinds (46_accessors.md R150 to R160). -/
theorem accessor_served {i : Instr} (hi : isAccessor i = true) (s : State) : Served s (exec i s) := by
  cases i with
  | getReg8 | getReg16 | setReg8 | setReg16 =>
    exact whenResolved_served (fun hg _ => noDefect_of_good hg) (fun hg _ _ => noDefect_of_good hg)
  | getSeg | setSeg =>
    exact whenResolved_served (fun hg _ => noDefect_withSegSlot hg _ fun _ => noDefect_of_good hg)
      (fun hg _ _ => noDefect_withSegSlot hg _ fun _ => noDefect_of_good hg)
  | getMem8 =>
    rw [exec, execGetMem8]
    refine whenResolvedMem_served (fun hg _ => noDefect_of_good hg) (fun hg pa => ?_)
    cases memRead8 pa s with
    | some v => exact noDefect_of_good hg
    | none => exact noDefect_memoryAccessError pa hg
  | getMem16 =>
    rw [exec, execGetMem16]
    refine whenResolvedMem_served (fun hg _ => noDefect_of_good hg) (fun hg pa => ?_)
    cases memRead16 pa s with
    | some v => exact noDefect_of_good hg
    | none => exact noDefect_memoryAccessError pa hg
  | setMem8 v =>
    rw [exec, execSetMem8]
    refine whenResolvedMem_served (fun hg _ => noDefect_of_good hg) (fun hg pa => ?_)
    cases hv : s.addrValid pa .write
    · rw [memWrite8_rejected v hv]
      exact noDefect_memoryAccessError pa hg
    · rw [memWrite8_accepted v hv]
      exact noDefect_of_good hg
  | setMem16 v =>
    rw [exec, execSetMem16]
    refine whenResolvedMem_served (fun hg _ => noDefect_of_good hg) (fun hg pa => ?_)
    cases hv : s.wordValid pa .write
    · rw [memWrite16_rejected v hv]
      exact noDefect_memoryAccessError pa hg
    · rw [memWrite16_accepted v hv]
      exact noDefect_of_good hg
  | bxSi | bxDi | bpSi | bpDi | si | di | d16 | bx | bxSiD8 | bxDiD8 | bpSiD8 | bpDiD8 | siD8 | diD8 | bpD8 | bxD8
  | bxSiD16 | bxDiD16 | bpSiD16 | bpDiD16 | siD16 | diD16 | bpD16 | bxD16 | reg0 | reg1 | reg2 | reg3 | reg4 | reg5
  | reg6 | reg7 | decode | armOverride | clearOverride | reset => cases hi

/-- An index that is a slot is latched, and any other raises `RegisterIndexError` (45_segment_override.md R141). -/
theorem armOverride_served (n : Nat) (s : State) : Served s (exec (.armOverride n) s) := by
  rw [exec, execArmOverride]
  refine whenNoFault_served fun hg => ?_
  cases segSlot n with
  | some k => exact ⟨_, rfl, noDefect_of_good hg⟩
  | none => exact ⟨_, rfl, noDefect_takeError (by decide) hg⟩

/-- Every command but `reset` stands behind the common entry. -/
theorem exec_served {i : Instr} (hi : i ≠ .reset) (s : State) : Served s (exec i s) := by
  rcases instr_cases i with hform | hacc | rfl | ⟨n, rfl⟩ | rfl | rfl
  · exact form_served hform s
  · exact accessor_served hacc s
  · exact decode_served s
  · exact armOverride_served n s
  · rw [exec, execClearOverride]
    exact whenNoFault_served fun hg => ⟨_, rfl, noDefect_of_good hg⟩
  · exact absurd rfl hi

/-! ### What every step ends in -/

/-- The machine goes on, and `InvariantViolation` is not newly recorded (60_exceptions.md R173, R179). -/
def GoesOn (s : State) (o : Out) : Prop :=
  ∃ t, o = .next t ∧ (t.fault = some .invariantViolation → s.fault = some .invariantViolation)

/-- A refusal leaves the fault register, and a command that ran leaves no defect in it. -/
theorem Served.goesOn {s : State} {o : Out} (h : Served s o) : GoesOn s o := by
  cases h with
  | refused hf ho => exact ⟨_, ho, id⟩
  | ran hg ho ht => exact ⟨_, ho, fun hfault => absurd hfault ht⟩

/-- `reset` clears the fault register, and every other command is served. -/
theorem exec_goesOn (i : Instr) (s : State) : GoesOn s (exec i s) := by
  by_cases hi : i = .reset
  · rw [hi]
    exact ⟨_, rfl, nofun⟩
  · exact (exec_served hi s).goesOn

/-- A code that spells no command raises `ProtocolViolation` (30_encoding.md R72). -/
theorem unassignedCode_served (s : State) : Served s (execUnassignedCode s) := by
  rw [execUnassignedCode]
  exact whenNoFault_served fun hg => ⟨_, rfl, noDefect_takeError (by decide) hg⟩

/-- By the request at the head of the script: idle, a command, a code that spells none, or a move of the caller. -/
theorem step_goesOn (s : State) : GoesOn s (step s) := by
  unfold step
  split
  · exact ⟨s, rfl, id⟩
  · split
    · exact exec_goesOn _ s
    · exact (unassignedCode_served s).goesOn
  · exact ⟨_, rfl, fun h => (runCallerMove_fault _ s).symm.trans h⟩

/-! ### The statements -/

/-- Settles O51: a command does not run while a fault is held, so it is refused. -/
theorem faultIsStickyUntilReset : Obligations.FaultIsStickyUntilReset := by
  unfold Obligations.FaultIsStickyUntilReset
  intro i s k hf hi
  cases exec_served hi s with
  | refused hf' ho =>
    obtain rfl := Option.some.inj (hf'.symm.trans hf)
    exact ho
  | ran hg => cases hg.symm.trans hf

/-- Settles O54: every command and every step goes on. -/
theorem everyInstructionAnswersANextState : Obligations.EveryInstructionAnswersANextState := by
  unfold Obligations.EveryInstructionAnswersANextState
  exact ⟨fun i s => (exec_goesOn i s).imp fun _ h => h.1, fun s => (step_goesOn s).imp fun _ h => h.1⟩

/-- Settles O55: every step goes on to a next state, which is no stop and in which the kind is not newly recorded. -/
theorem invariantViolationIsNeverRaised : Obligations.InvariantViolationIsNeverRaised := by
  unfold Obligations.InvariantViolationIsNeverRaised
  refine ⟨fun s t h => ?_, fun s h => ?_⟩
  · obtain ⟨u, hu, hkept⟩ := step_goesOn s
    cases hu.symm.trans h
    exact hkept
  · obtain ⟨u, hu, _⟩ := step_goesOn s
    cases hu.symm.trans h

end Sys2Proof.Proofs.Exceptions

namespace Sys2Proof.Proofs.ResetAndHazards

/-! The statements of the family 70_reset_and_hazards.md: `reset`, the idle step, the caller's moves, and the latched address. -/

open Sys2Proof Sys2Proof.Machine Sys2Proof.Proofs.Effects Sys2Proof.Proofs.Accessors

/-- Settles O52: the arm of `reset` has no precondition, and a fault held does not refuse it. -/
theorem resetCompletesInEveryState : Obligations.ResetCompletesInEveryState := by
  unfold Obligations.ResetCompletesInEveryState
  intro s
  rfl

/-- Settles O4: an empty script selects the idle arm of `step`. -/
theorem idleStepHoldsTheState : Obligations.IdleStepHoldsTheState := by
  unfold Obligations.IdleStepHoldsTheState
  intro s hscript
  simp only [step, hscript]

/-- A move of the caller takes effect and is no longer pending. -/
theorem step_callerMove {s : State} {m : CallerMove} {rest : List Request} (hscript : s.script = .caller m :: rest) :
    step s = .next { callerEffect m s with script := rest } := by
  simp only [step, hscript, runCallerMove, List.tail_cons]

/-- The caller fetches a byte that the stream holds. -/
theorem callerEffect_fetchByte {s : State} (h : s.cur + 1 ≤ s.code.length) :
    callerEffect .fetchByte s = { s with cur := s.cur + 1 } := by
  simp only [callerEffect, nextByte_ok (List.getElem?_eq_getElem h)]

/-- The caller fetches a word that the stream holds. -/
theorem callerEffect_fetchWord {s : State} (h : s.cur + 2 ≤ s.code.length) :
    callerEffect .fetchWord s = { s with cur := s.cur + 2 } := by
  have hlo : s.cur < s.code.length := by omega
  simp only [callerEffect, nextWord_ok (List.getElem?_eq_getElem hlo) (List.getElem?_eq_getElem h)]

/-- Settles O5, move by move: the step is the move's own effect, and the fetches succeed within the stream. -/
theorem callerMovesChangeOnlyTheirTarget : Obligations.CallerMovesChangeOnlyTheirTarget := by
  unfold Obligations.CallerMovesChangeOnlyTheirTarget
  intro s rest
  refine ⟨fun _ _ => step_callerMove, fun _ _ => step_callerMove, fun _ _ => step_callerMove, fun _ _ => step_callerMove,
    fun hscript hlen => ?fetchByte, fun hscript hlen => ?fetchWord⟩
  case fetchByte => rw [step_callerMove hscript, callerEffect_fetchByte hlen]
  case fetchWord => rw [step_callerMove hscript, callerEffect_fetchWord hlen]

/-- After an accessor that responds `ok` and writes no memory operand, `getMem16` reads the word at the address latched before
(46_accessors.md R161). -/
theorem getMem16_after_accessor {i : Instr} {s t : State} {f : Fields} {seg : SegIndex} {off : Word} {pa : PhysAddr}
    (hi : isAccessor i = true) (hstore : ¬ Stores i) (hg : Good s) (hm : s.resolution = .memory f seg off pa)
    (hlow : s.addrValid pa .read = true) (hhigh : s.addrValid (pa + 1) .read = true)
    (h : exec i s = .next t) (hok : RespondedOk t) :
    ∃ u, exec .getMem16 t = .next u ∧
      u.response = some (.okWord (s.mem.read ((pa.toNat + 1) % 1048576) ++ s.mem.read pa.toNat)) := by
  obtain ⟨hres, _, hgood, _⟩ := accessorsKeepTheBlockState i s t hi hg h hok
  have hrejects : t.rejects = s.rejects := (exec_effect h).code_rejects_eq.2
  have hmem : t.mem = s.mem := (exec_effect h).mem_eq_or.resolve_right fun ⟨hstores, _⟩ => hstore hstores
  have hvalid (a : PhysAddr) : t.addrValid a .read = s.addrValid a .read := by
    rw [State.addrValid, hrejects, State.addrValid]
  obtain ⟨_, hword⟩ := getMemReadsTheLatchedAddress t f seg off pa hgood (hres.trans hm) ((hvalid pa).trans hlow)
  refine ⟨_, hword ((hvalid (pa + 1)).trans hhigh), ?_⟩
  rw [hmem]

/-- Settles O48: each of the three setters is an accessor that writes no memory. -/
theorem resolvedAddressDoesNotFollowRegisters : Obligations.ResolvedAddressDoesNotFollowRegisters := by
  unfold Obligations.ResolvedAddressDoesNotFollowRegisters
  intro i s t f seg off pa hg hm hlow hhigh hi h hok
  obtain ⟨haccessor, hstore⟩ : isAccessor i = true ∧ ¬ Stores i := by
    rcases hi with ⟨v, rfl⟩ | ⟨v, rfl⟩ | ⟨v, rfl⟩ <;> exact ⟨rfl, nofun⟩
  exact getMem16_after_accessor haccessor hstore hg hm hlow hhigh h hok

end Sys2Proof.Proofs.ResetAndHazards
